-- ==== Sys2Proof/Word.lean ====
section
/-! DEFINITION. The value types of the engine (00_scope.md R13) and the names of its working registers. -/

namespace Sys2Proof

/-- An output byte (20_memory.md R64). -/
abbrev Byte := BitVec 8
/-- A u32: lanes, interface registers, command words. -/
abbrev Word32 := BitVec 32
/-- A u64: the result of NEXT64 (20_memory.md R63). -/
abbrev Word64 := BitVec 64
/-- A u128: one block of the state memory, four 32-bit lanes (20_memory.md R61). -/
abbrev Block := BitVec 128

/-- The u128 working registers of the datapath (10_state.md R50). -/
inductive VReg where
  | a | b | c | d | x | y | z | v | r1 | r2
  deriving DecidableEq, Repr

/-- A source operand of a lane-vector operation: a working register, or the constant MASK of the
ParameterSet (40_lane_vector.md R107; 41_recurrence.md R120 uses it in `y & MASK`). -/
inductive VSrc where
  | reg (r : VReg)
  | mask
  deriving DecidableEq, Repr

end Sys2Proof
end

