-- ==== Sys2Proof/Config.lean ====
section
/-! DEFINITION. What is fixed when an instance is built (10_state.md R54): the size MEXP, the
ParameterSet and the window address BASE; and the one free value of the model. -/

namespace Sys2Proof

/-- The ten supported sizes (00_scope.md R8): "A model makes MEXP a parameter of a type with ten
members" (60_exceptions.md R209). -/
inductive Mexp where
  | m607 | m1279 | m2281 | m4253 | m11213 | m19937 | m44497 | m86243 | m132049 | m216091
  deriving DecidableEq, Repr

def Mexp.toNat : Mexp → Nat
  | .m607 => 607
  | .m1279 => 1279
  | .m2281 => 2281
  | .m4253 => 4253
  | .m11213 => 11213
  | .m19937 => 19937
  | .m44497 => 44497
  | .m86243 => 86243
  | .m132049 => 132049
  | .m216091 => 216091

/-- One immutable record per size (00_scope.md R10). -/
structure ParameterSet where
  pos1 : Nat
  sl1 : Nat
  sr1 : Nat
  sl2 : Nat
  sr2 : Nat
  msk1 : Word32
  msk2 : Word32
  msk3 : Word32
  msk4 : Word32
  parity1 : Word32
  parity2 : Word32
  parity3 : Word32
  parity4 : Word32
  deriving DecidableEq, Repr

/-- The elaboration-time constants of one instance (00_scope.md R12, 10_state.md R54). -/
structure Config where
  mexp : Mexp
  params : ParameterSet
  /-- BASE, the byte address of the interface window (20_memory.md R70). -/
  base : Nat
  deriving DecidableEq, Repr

/-- N, the number of 128-bit blocks (00_scope.md R9). -/
def Config.nblk (c : Config) : Nat := c.mexp.toNat / 128 + 1

/-- W, the number of 32-bit words of the flattened view (00_scope.md R9). -/
def Config.nwords (c : Config) : Nat := 4 * c.nblk

/-- FREE VALUE (log entry 13, DESIGN CHOICE): what the platform answers to the `n`-th host read that
lies outside the window, at an address, before it is cut to the width of the access. 10_state.md R47: such an
access does "not reach the engine". -/
opaque Config.outsideRead : Nat → Nat → Word64

end Sys2Proof
end

