-- ==== Sys2Proof/Syntax.lean ====
section
/-! DEFINITION. The instructions: one constructor per row of spec/opcode_table.json. -/

namespace Sys2Proof

/-- The three commands (30_encoding.md R82) and the ten internal micro-operations (R88).
The spec gives the internal operations operands but no operand encoding; the destination and source
names are this model's (log entry 6, DESIGN CHOICE). -/
inductive Instr where
  /-- 42_seed_certify.md R140. The seed is DIN, so there is no operand field (30_encoding.md R81). -/
  | seed
  /-- 43_extraction.md R160. -/
  | next32
  /-- 43_extraction.md R161. -/
  | next64
  /-- 40_lane_vector.md R101. -/
  | vand (dst : VReg) (u w : VSrc)
  /-- 40_lane_vector.md R102. -/
  | vxor (dst : VReg) (u w : VSrc)
  /-- 40_lane_vector.md R103; `k` bits. -/
  | vsrl32 (dst : VReg) (u : VSrc) (k : Nat)
  /-- 40_lane_vector.md R104; `k` bits. -/
  | vsll32 (dst : VReg) (u : VSrc) (k : Nat)
  /-- 40_lane_vector.md R105; `k` bytes. -/
  | vsrlb (dst : VReg) (u : VSrc) (k : Nat)
  /-- 40_lane_vector.md R106; `k` bytes. -/
  | vsllb (dst : VReg) (u : VSrc) (k : Nat)
  /-- 41_recurrence.md R120: operands in the working registers a, b, c, d; the result goes to `dst`. -/
  | recur (dst : VReg)
  /-- 41_recurrence.md R122. -/
  | regen
  /-- 42_seed_certify.md R142, EXPAND(s). -/
  | expand (s : Word32)
  /-- 42_seed_certify.md R144. -/
  | certify
  deriving DecidableEq, Repr

end Sys2Proof
end

