-- ==== Sys2Proof/WellFormed.lean ====
section
/-! DEFINITION. Which instructions and configurations are well formed (00_scope.md R8, R10). -/

namespace Sys2Proof

/-- A shift amount comes from a ParameterSet, whose legal ranges (00_scope.md R10) bound it. The
operations themselves are total (40_lane_vector.md R103 to R106) and run on any amount. -/
def Instr.wf : Instr → Bool
  | .vsrl32 _ _ k => decide (k ≤ 31)
  | .vsll32 _ _ k => decide (k ≤ 31)
  | .vsrlb _ _ k => decide (k ≤ 15)
  | .vsllb _ _ k => decide (k ≤ 15)
  | .seed => true
  | .next32 => true
  | .next64 => true
  | .vand _ _ _ => true
  | .vxor _ _ _ => true
  | .recur _ => true
  | .regen => true
  | .expand _ => true
  | .certify => true

/-- The legal values of a ParameterSet for an instance of `n` blocks (00_scope.md R10). -/
abbrev ParameterSet.wf (p : ParameterSet) (n : Nat) : Prop :=
  (1 ≤ p.pos1 ∧ p.pos1 ≤ n - 1) ∧ p.sl1 ≤ 31 ∧ p.sr1 ≤ 31 ∧ p.sl2 ≤ 15 ∧ p.sr2 ≤ 15 ∧
    ¬ (p.parity1 = 0 ∧ p.parity2 = 0 ∧ p.parity3 = 0 ∧ p.parity4 = 0)

/-- A configuration from which an instance can be built (60_exceptions.md R209); BASE is 4-byte
aligned (92_eei_decisions.md D2). -/
abbrev Config.wf (c : Config) : Prop := c.params.wf c.nblk ∧ c.base % 4 = 0

end Sys2Proof
end

