-- ==== Sys2Proof/Decode.lean ====
section
/-! DEFINITION. The command decoder, total on every word (30_encoding.md R80 to R85), and the encoder. -/

namespace Sys2Proof

/-- Why a command word names no command (30_encoding.md R83). -/
inductive IllegalWord where
  /-- RSVD is not 0. -/
  | reservedNonzero (rsvd : BitVec 24)
  /-- OPC is 0x00 or in 0x04..0xFF. -/
  | unassignedOpc (opc : BitVec 8)
  deriving DecidableEq, Repr

/-- The decoder's answer (30_encoding.md R85). -/
inductive Decoded where
  | command (i : Instr)
  | illegal (why : IllegalWord)
  deriving DecidableEq, Repr

/-- OPC, bits 7:0 (30_encoding.md R80). -/
def opcField (w : Word32) : BitVec 8 := w.extractLsb' 0 8

/-- RSVD, bits 31:8 (30_encoding.md R80). -/
def rsvdField (w : Word32) : BitVec 24 := w.extractLsb' 8 24

/-- `decode` of 30_encoding.md R85, read field by field (R80, R82). -/
def decode (w : Word32) : Decoded :=
  if rsvdField w ≠ 0 then .illegal (.reservedNonzero (rsvdField w))
  else if opcField w = 0x01#8 then .command .seed
  else if opcField w = 0x02#8 then .command .next32
  else if opcField w = 0x03#8 then .command .next64
  else .illegal (.unassignedOpc (opcField w))

/-- The command word of an instruction (30_encoding.md R82); the internal operations have none (R88). -/
def encode : Instr → Option Word32
  | .seed => some 0x00000001#32
  | .next32 => some 0x00000002#32
  | .next64 => some 0x00000003#32
  | .vand _ _ _ => none
  | .vxor _ _ _ => none
  | .vsrl32 _ _ _ => none
  | .vsll32 _ _ _ => none
  | .vsrlb _ _ _ => none
  | .vsllb _ _ _ => none
  | .recur _ => none
  | .regen => none
  | .expand _ => none
  | .certify => none

/-- The decoder on a word numbered as spec/opcode_table.json numbers it: the bits above `nbits` are 0,
and a command is one 32-bit word (30_encoding.md R84). -/
def decodeTableWord (nbits w : Nat) : Option Instr :=
  if w % 2 ^ nbits < 2 ^ 32 then
    match decode (BitVec.ofNat 32 (w % 2 ^ nbits)) with
    | .command i => some i
    | .illegal _ => none
  else none

end Sys2Proof
end

