-- ==== Sys2Proof/Machine/Params.lean ====
section
/-! DEFINITION. The default ParameterSet table, the elaboration of an instance and its identity string
(00_scope.md R3, R8, R10, R11). -/

namespace Sys2Proof.Machine

/-- The default value of PARAMS(MEXP), the table of 00_scope.md R11 (log entry 2). -/
def defaultParams : Mexp → ParameterSet
  | .m607 =>
    { pos1 := 2, sl1 := 15, sr1 := 13, sl2 := 3, sr2 := 3,
      msk1 := 0xfdff37ff#32, msk2 := 0xef7f3f7d#32, msk3 := 0xff777b7d#32, msk4 := 0x7ff7fb2f#32,
      parity1 := 0x00000001#32, parity2 := 0x00000000#32, parity3 := 0x00000000#32, parity4 := 0x5986f054#32 }
  | .m1279 =>
    { pos1 := 7, sl1 := 14, sr1 := 5, sl2 := 3, sr2 := 1,
      msk1 := 0xf7fefffd#32, msk2 := 0x7fefcfff#32, msk3 := 0xaff3ef3f#32, msk4 := 0xb5ffff7f#32,
      parity1 := 0x00000001#32, parity2 := 0x00000000#32, parity3 := 0x00000000#32, parity4 := 0x20000000#32 }
  | .m2281 =>
    { pos1 := 12, sl1 := 19, sr1 := 5, sl2 := 1, sr2 := 1,
      msk1 := 0xbff7ffbf#32, msk2 := 0xfdfffffe#32, msk3 := 0xf7ffef7f#32, msk4 := 0xf2f7cbbf#32,
      parity1 := 0x00000001#32, parity2 := 0x00000000#32, parity3 := 0x00000000#32, parity4 := 0x41dfa600#32 }
  | .m4253 =>
    { pos1 := 17, sl1 := 20, sr1 := 7, sl2 := 1, sr2 := 1,
      msk1 := 0x9f7bffff#32, msk2 := 0x9fffff5f#32, msk3 := 0x3efffffb#32, msk4 := 0xfffff7bb#32,
      parity1 := 0xa8000001#32, parity2 := 0xaf5390a3#32, parity3 := 0xb740b3f8#32, parity4 := 0x6c11486d#32 }
  | .m11213 =>
    { pos1 := 68, sl1 := 14, sr1 := 7, sl2 := 3, sr2 := 3,
      msk1 := 0xeffff7fb#32, msk2 := 0xffffffef#32, msk3 := 0xdfdfbfff#32, msk4 := 0x7fffdbfd#32,
      parity1 := 0x00000001#32, parity2 := 0x00000000#32, parity3 := 0xe8148000#32, parity4 := 0xd0c7afa3#32 }
  | .m19937 =>
    { pos1 := 122, sl1 := 18, sr1 := 11, sl2 := 1, sr2 := 1,
      msk1 := 0xdfffffef#32, msk2 := 0xddfecb7f#32, msk3 := 0xbffaffff#32, msk4 := 0xbffffff6#32,
      parity1 := 0x00000001#32, parity2 := 0x00000000#32, parity3 := 0x00000000#32, parity4 := 0x13c9e684#32 }
  | .m44497 =>
    { pos1 := 330, sl1 := 5, sr1 := 9, sl2 := 3, sr2 := 3,
      msk1 := 0xeffffffb#32, msk2 := 0xdfbebfff#32, msk3 := 0xbfbf7bef#32, msk4 := 0x9ffd7bff#32,
      parity1 := 0x00000001#32, parity2 := 0x00000000#32, parity3 := 0xa3ac4000#32, parity4 := 0xecc1327a#32 }
  | .m86243 =>
    { pos1 := 366, sl1 := 6, sr1 := 19, sl2 := 7, sr2 := 1,
      msk1 := 0xfdbffbff#32, msk2 := 0xbff7ff3f#32, msk3 := 0xfd77efff#32, msk4 := 0xbf9ff3ff#32,
      parity1 := 0x00000001#32, parity2 := 0x00000000#32, parity3 := 0x00000000#32, parity4 := 0xe9528d85#32 }
  | .m132049 =>
    { pos1 := 110, sl1 := 19, sr1 := 21, sl2 := 1, sr2 := 1,
      msk1 := 0xffffbb5f#32, msk2 := 0xfb6ebf95#32, msk3 := 0xfffefffa#32, msk4 := 0xcff77fff#32,
      parity1 := 0x00000001#32, parity2 := 0x00000000#32, parity3 := 0xcb520000#32, parity4 := 0xc7e91c7d#32 }
  | .m216091 =>
    { pos1 := 627, sl1 := 11, sr1 := 10, sl2 := 3, sr2 := 1,
      msk1 := 0xbff7bff7#32, msk2 := 0xbfffffff#32, msk3 := 0xbffffa7f#32, msk4 := 0xffddfbfb#32,
      parity1 := 0xf8000001#32, parity2 := 0x89e80709#32, parity3 := 0x3bd2b64b#32, parity4 := 0x0c64b1e4#32 }

/-- The size a number names, if it is one of the ten (00_scope.md R8). -/
def mexpOf : Nat → Option Mexp
  | 607 => some .m607
  | 1279 => some .m1279
  | 2281 => some .m2281
  | 4253 => some .m4253
  | 11213 => some .m11213
  | 19937 => some .m19937
  | 44497 => some .m44497
  | 86243 => some .m86243
  | 132049 => some .m132049
  | 216091 => some .m216091
  | _ => none

/-- Building an instance: "Any other configuration yields no instance" (60_exceptions.md R209). -/
def elaborate (mexp : Nat) (p : ParameterSet) (base : Nat) : Option Config :=
  match mexpOf mexp with
  | none => none
  | some m => if Config.wf ⟨m, p, base⟩ then some ⟨m, p, base⟩ else none

/-- MSKk applies to lane k-1 (40_lane_vector.md R107). -/
def paramMsk (p : ParameterSet) : Nat → Word32
  | 0 => p.msk1
  | 1 => p.msk2
  | 2 => p.msk3
  | _ => p.msk4

/-- PARITYk is matched against lane k-1 (00_scope.md R10). -/
def paramParity (p : ParameterSet) : Nat → Word32
  | 0 => p.parity1
  | 1 => p.parity2
  | 2 => p.parity3
  | _ => p.parity4

/-- One lowercase hexadecimal digit. -/
def hexChar (n : Nat) : Char := (Nat.digitChar (n % 16))

/-- Eight lowercase hexadecimal digits, the most significant first. -/
def hex8 (w : Word32) : List Char :=
  [28, 24, 20, 16, 12, 8, 4, 0].map fun k => hexChar ((w >>> k).toNat)

/-- Decimal digits. -/
def decChars (n : Nat) : List Char := Nat.toDigits 10 n

/-- The characters of an instance's identity string (00_scope.md R3). The hardware does not show it. -/
def identityChars (c : Config) : List Char :=
  ['S', 'F', 'M', 'T', '-'] ++ decChars c.mexp.toNat ++ [':'] ++ decChars c.params.pos1 ++ ['-'] ++
    decChars c.params.sl1 ++ ['-'] ++ decChars c.params.sl2 ++ ['-'] ++ decChars c.params.sr1 ++ ['-'] ++
    decChars c.params.sr2 ++ [':'] ++ hex8 c.params.msk1 ++ ['-'] ++ hex8 c.params.msk2 ++ ['-'] ++
    hex8 c.params.msk3 ++ ['-'] ++ hex8 c.params.msk4

end Sys2Proof.Machine
end

