-- ==== Sys2Proof/Machine/State.lean ====
section
/-! DEFINITION. The state of one engine instance and its host, as plain data (10_state.md), the reasons
a step can stop, and the state after reset. -/

namespace Sys2Proof.Machine

/-- Data by numeric key, the keys strictly rising; a key that is not listed has no value. -/
abbrev Cells (α : Type) := List (Nat × α)

/-- The state memory SM by block index (10_state.md R31, 20_memory.md R60). An unlisted block is "unset"
(10_state.md R32; log entry 10). -/
abbrev Memory := Cells Block

/-- The working registers of the datapath (10_state.md R50). -/
structure Datapath where
  a : Block
  b : Block
  c : Block
  d : Block
  x : Block
  y : Block
  z : Block
  v : Block
  r1 : Block
  r2 : Block
  /-- the seed-expansion word register -/
  w : Word32
  /-- the certification accumulator -/
  inner : Word32
  deriving DecidableEq, Repr

/-- The working registers at reset: the spec gives them "no value" (10_state.md R53), the model 0 (log
entry 4, DESIGN CHOICE). -/
def Datapath.zero : Datapath := ⟨0, 0, 0, 0, 0, 0, 0, 0, 0, 0, 0, 0⟩

/-- The access widths 20_memory.md R68 names. -/
inductive Width where
  | w8 | w16 | w32 | w64
  deriving DecidableEq, Repr

/-- One host bus access: a byte address of the host's space and a width (30_encoding.md R86). -/
structure Access where
  addr : Nat
  width : Width
  deriving DecidableEq, Repr

/-- A host variable (30_encoding.md R86, R87). The spec gives it no width; the model makes each 64 bits wide
(log entry 22, DESIGN CHOICE). -/
inductive HVar where
  /-- the STATUS word a `wait` or `chk` polls -/
  | s
  /-- the low half `get64` reads -/
  | lo
  /-- the high half `get64` reads -/
  | hi
  /-- the word or pair a `fill` reads -/
  | r
  /-- a program's own variable -/
  | var (n : Nat)
  deriving DecidableEq, Repr

/-- The statements a host runs: the two machine statements of 30_encoding.md R86, and the host-side
parts of the pseudo-instructions of R87 and 43_extraction.md R164 (log entry 11). -/
inductive HostStmt where
  /-- one write of a 32-bit value -/
  | wr (a : Access) (v : Word32)
  /-- one read into a host variable -/
  | rd (a : Access) (dst : HVar)
  /-- `wait`: read STATUS into s, and again while s[0] = 1 -/
  | poll (a : Access)
  /-- `dst = {hi, lo}` -/
  | pair (dst : HVar)
  /-- store the first `count` bytes of r, the least significant first, from buffer address `addr` on -/
  | put (addr count : Nat)
  /-- `chk`: the program treats s[11:8] ≠ 0 as failure -/
  | failIf
  deriving DecidableEq, Repr

/-- The host of the instance: what is left of its program, and its own variables
(70_reset_and_hazards.md R240). -/
structure HostState where
  prog : List HostStmt
  s : Word64
  lo : Word64
  hi : Word64
  r : Word64
  vars : Cells Word64
  buf : Cells Byte
  failed : Bool
  deriving DecidableEq, Repr

/-- A host that has nothing to do (log entry 12, DESIGN CHOICE). -/
def HostState.idle : HostState := ⟨[], 0, 0, 0, 0, [], [], false⟩

/-- Who takes the next step (10_state.md R30; `reset` is the platform's, 70_reset_and_hazards.md R230). -/
inductive Turn where
  | host | engine | reset
  deriving DecidableEq, Repr

/-- The whole state: the engine's tuple of 43_extraction.md R169, its working registers (10_state.md
R50), its configuration (R54), the host's side, and the schedule that stands for LATENCY. -/
structure State where
  cfg : Config
  sm : Memory
  cursor : Nat
  seeded : Bool
  halted : Bool
  pend : Option Word32
  din : Word32
  dout0 : Word32
  dout1 : Word32
  /-- STATUS bit 2 -/
  sticky : Bool
  /-- STATUS bit 3 -/
  overrun : Bool
  /-- STATUS bits 11:8 -/
  err : BitVec 4
  regenCount : Word32
  dp : Datapath
  host : HostState
  /-- the turns still to be taken, the next one first (log entry 7) -/
  sched : List Turn
  /-- the model's own counter of free values (log entry 13) -/
  freeIx : Nat
  deriving DecidableEq, Repr

/-- Why the machine stops with a fault. -/
inductive Fault where
  /-- Raised by REGEN, CERTIFY, SEED, NEXT32 and NEXT64 where they would read a block of SM that holds no
  value. "No rule reads SM while it is unset" (10_state.md R32), so no state reached from reset raises it.
  Safe: the model stops where the spec gives no value. -/
  | smUnset
  deriving DecidableEq, Repr

/-- Why the model has no meaning for a step. -/
inductive Refusal where
  /-- Raised by exec's arm of an instruction that has no meaning yet; none is left. Safe. -/
  | notModelled (mnemonic : String)
  /-- Raised by a host access that touches the window and is not an aligned 32-bit one: "The model refuses
  any other access" (20_memory.md R68). Safe. -/
  | notAligned32
  deriving DecidableEq, Repr

/-- The instance right after reset, for any configuration (10_state.md R53), its host idle and no turn
scheduled. -/
def State.resetOf (c : Config) : State where
  cfg := c
  sm := []
  cursor := c.nwords
  seeded := false
  halted := false
  pend := none
  din := 0
  dout0 := 0
  dout1 := 0
  sticky := false
  overrun := false
  err := 0
  regenCount := 0
  dp := Datapath.zero
  host := HostState.idle
  sched := []
  freeIx := 0

/-- The configuration of State.reset: MEXP 607 (log entry 1), its default ParameterSet (log entry 2), and
BASE 0 (log entry 3). Every statement about the machine is about every configuration. -/
def resetConfig : Config := ⟨.m607, defaultParams .m607, 0⟩

/-- The machine right after reset. -/
def State.reset : State := State.resetOf resetConfig

end Sys2Proof.Machine
end

