-- ==== Sys2Proof/Machine/Lanes.lean ====
section
/-! DEFINITION. Lanes, bytes and bits of a block (20_memory.md R61, 40_lane_vector.md R100 to R107). -/

namespace Sys2Proof.Machine

/-- `lane(v, l)` (40_lane_vector.md R100). -/
def lane (v : Block) (l : Nat) : Word32 := v.extractLsb' (32 * l) 32

/-- `lanes [e0, e1, e2, e3]` (40_lane_vector.md R100). -/
def lanes (e0 e1 e2 e3 : Word32) : Block :=
  e0.setWidth 128 ||| (e1.setWidth 128 <<< 32) ||| (e2.setWidth 128 <<< 64) ||| (e3.setWidth 128 <<< 96)

/-- The vector with lane `l` replaced. -/
def setLane (v : Block) (l : Nat) (e : Word32) : Block :=
  lanes (if l = 0 then e else lane v 0) (if l = 1 then e else lane v 1)
    (if l = 2 then e else lane v 2) (if l = 3 then e else lane v 3)

/-- Byte `j` of a block (20_memory.md R61). -/
def blockByte (v : Block) (j : Nat) : Byte := v.extractLsb' (8 * j) 8

/-- MASK = lanes [MSK1, MSK2, MSK3, MSK4] (40_lane_vector.md R107). -/
def maskOf (p : ParameterSet) : Block :=
  lanes (paramMsk p 0) (paramMsk p 1) (paramMsk p 2) (paramMsk p 3)

/-- VAND (40_lane_vector.md R101). -/
def vand (u w : Block) : Block := u &&& w

/-- VXOR (40_lane_vector.md R102). -/
def vxor (u w : Block) : Block := u ^^^ w

/-- VSRL32 (40_lane_vector.md R103); an amount of 32 or more gives 0. -/
def vsrl32 (u : Block) (k : Nat) : Block :=
  lanes (lane u 0 >>> k) (lane u 1 >>> k) (lane u 2 >>> k) (lane u 3 >>> k)

/-- VSLL32 (40_lane_vector.md R104); an amount of 32 or more gives 0. -/
def vsll32 (u : Block) (k : Nat) : Block :=
  lanes (lane u 0 <<< k) (lane u 1 <<< k) (lane u 2 <<< k) (lane u 3 <<< k)

/-- VSRLB (40_lane_vector.md R105); an amount of 16 or more gives 0. -/
def vsrlb (u : Block) (k : Nat) : Block := u >>> (8 * k)

/-- VSLLB (40_lane_vector.md R106); an amount of 16 or more gives 0. -/
def vsllb (u : Block) (k : Nat) : Block := u <<< (8 * k)

/-- `popcount` (00_scope.md R14). -/
def popcount (v : Word32) : Nat := (List.range 32).countP fun i => v.getLsbD i

/-- The least `n` in 0..31 with `v[n] = 1`, if there is one (42_seed_certify.md R144). -/
def lowestSetBit (v : Word32) : Option Nat := (List.range 32).find? fun i => v.getLsbD i

end Sys2Proof.Machine
end

