-- ==== Sys2Proof/Machine/Memory.lean ====
section
/-! DEFINITION. The one canonical form of keyed data, and the views of the state memory
(20_memory.md R60 to R63, 00_scope.md R15). -/

namespace Sys2Proof.Machine

/-- The value at a key; `none` where the key is not listed. -/
def Cells.read {α : Type} : Cells α → Nat → Option α
  | [], _ => none
  | (j, x) :: m, k => if j = k then some x else Cells.read m k

/-- Set the value at a key, keeping the keys in rising order. -/
def Cells.write {α : Type} : Cells α → Nat → α → Cells α
  | [], k, v => [(k, v)]
  | (j, x) :: m, k, v =>
    if k < j then (k, v) :: (j, x) :: m
    else if k = j then (k, v) :: m
    else (j, x) :: Cells.write m k v

/-- The canonical form: the keys strictly rise. (An unlisted key has no value, so no entry can equal what
an unlisted key reads as.) -/
abbrev Cells.wf {α : Type} (m : Cells α) : Prop := m.Pairwise fun p q => p.1 < q.1

/-- The canonical form of the state memory. -/
abbrev Memory.wf (m : Memory) : Prop := Cells.wf m

/-- `SM[k]` (00_scope.md R15). -/
def Memory.block (m : Memory) (k : Nat) : Option Block := Cells.read m k

/-- `SM[k] <- v` (00_scope.md R15). -/
def Memory.setBlock (m : Memory) (k : Nat) (v : Block) : Memory := Cells.write m k v

/-- Byte `n` of SM: byte `n mod 16` of block `n div 16` (20_memory.md R61). -/
def Memory.byte (m : Memory) (n : Nat) : Option Byte :=
  (m.block (n / 16)).map fun v => blockByte v (n % 16)

/-- `W32(p) = lane(SM[p div 4], p mod 4)` (20_memory.md R62). -/
def Memory.w32 (m : Memory) (p : Nat) : Option Word32 :=
  (m.block (p / 4)).map fun v => lane v (p % 4)

/-- `W64(p) = {W32(p+1), W32(p)}` (20_memory.md R63). -/
def Memory.w64 (m : Memory) (p : Nat) : Option Word64 :=
  match m.w32 p, m.w32 (p + 1) with
  | some lo, some hi => some (hi.setWidth 64 <<< 32 ||| lo.setWidth 64)
  | _, _ => none

/-- `MemRead(p, n)`: the `n` bytes of the flattened state from byte `4p` on, the lowest address least
significant (00_scope.md R15). -/
def Memory.memRead (m : Memory) (p : Nat) : (n : Nat) → Option Nat
  | 0 => some 0
  | n + 1 =>
    match m.memRead p n, m.byte (4 * p + n) with
    | some lo, some b => some (lo + b.toNat * 2 ^ (8 * n))
    | _, _ => none

/-- Every one of the `n` blocks holds a value. -/
def Memory.full (m : Memory) (n : Nat) : Bool :=
  (List.range n).all fun k => (m.block k).isSome

/-- No block at or above `n` is listed (20_memory.md R60). -/
def Memory.within (m : Memory) (n : Nat) : Bool := m.all fun e => decide (e.1 < n)

end Sys2Proof.Machine
end

