-- ==== Sys2Proof/Machine/Operands.lean ====
section
/-! DEFINITION. Operands of the internal operations: the working registers (10_state.md R50) and MASK
(40_lane_vector.md R107). Log entry 6. -/

namespace Sys2Proof.Machine

/-- A working register's value. -/
def Datapath.get (d : Datapath) : VReg → Block
  | .a => d.a
  | .b => d.b
  | .c => d.c
  | .d => d.d
  | .x => d.x
  | .y => d.y
  | .z => d.z
  | .v => d.v
  | .r1 => d.r1
  | .r2 => d.r2

/-- The working registers with one of them set. -/
def Datapath.set (d : Datapath) (r : VReg) (e : Block) : Datapath :=
  match r with
  | .a => { d with a := e }
  | .b => { d with b := e }
  | .c => { d with c := e }
  | .d => { d with d := e }
  | .x => { d with x := e }
  | .y => { d with y := e }
  | .z => { d with z := e }
  | .v => { d with v := e }
  | .r1 => { d with r1 := e }
  | .r2 => { d with r2 := e }

/-- A source operand's value. -/
def readSrc (s : State) : VSrc → Block
  | .reg r => s.dp.get r
  | .mask => maskOf s.cfg.params

/-- Write a working register. -/
def setVReg (s : State) (r : VReg) (e : Block) : State := { s with dp := s.dp.set r e }

end Sys2Proof.Machine
end

