-- ==== Sys2Proof/Machine/Flags.lean ====
section
/-! DEFINITION. The STATUS fields (10_state.md R42, R51) and the result codes (60_exceptions.md R201). -/

namespace Sys2Proof.Machine

/-- The result codes that are ever written (60_exceptions.md R201). -/
inductive ErrCode where
  | ok | illegal | unseeded | defect
  deriving DecidableEq, Repr

/-- The 4-bit code (60_exceptions.md R201). -/
def ErrCode.bits : ErrCode → BitVec 4
  | .ok => 0x0#4
  | .illegal => 0x1#4
  | .unseeded => 0x2#4
  | .defect => 0xF#4

/-- STATUS.BUSY: "1 if PEND is non-empty or `halted` = 1; else 0" (10_state.md R42). -/
def busy (s : State) : Bool := s.pend.isSome || s.halted

/-- One bit at a position of a 32-bit register. -/
def bitAt (b : Bool) (n : Nat) : Word32 := if b then 1#32 <<< n else 0#32

/-- The word a read of STATUS returns (10_state.md R42). -/
def statusWord (s : State) : Word32 :=
  bitAt (busy s) 0 ||| bitAt s.seeded 1 ||| bitAt s.sticky 2 ||| bitAt s.overrun 3 |||
    (s.err.setWidth 32 <<< 8)

/-- A host write of `w` to STATUS clears the W1C bits it names (10_state.md R42). -/
def writeStatus (s : State) (w : Word32) : State :=
  { s with
    sticky := if w.getLsbD 2 then false else s.sticky
    overrun := if w.getLsbD 3 then false else s.overrun }

/-- A CMD or DIN write is dropped (60_exceptions.md R205). -/
def setOverrun (s : State) : State := { s with overrun := true }

end Sys2Proof.Machine
end

