-- ==== Sys2Proof/Machine/Ops.lean ====
section
/-! DEFINITION. The shared operations on the whole state: completing a command with its result code (the
engine's whole error mechanism, 60_exceptions.md R200 and R206: there is no trap entry and no return,
R208), the DEFECT condition, reset, and copying an instance. -/

namespace Sys2Proof.Machine

/-- `complete(code)` (60_exceptions.md R206, 30_encoding.md R90); `raise Error(code)` ends a command here. -/
def complete (code : ErrCode) (s : State) : State :=
  { s with
    err := code.bits
    sticky := if code = .ok then s.sticky else true
    pend := none }

/-- DEFECT (60_exceptions.md R204): the command is dropped and the engine halts until reset. -/
def defect (s : State) : State :=
  { s with halted := true, err := ErrCode.defect.bits, sticky := true, pend := none }

/-- The reset event (70_reset_and_hazards.md R230). The configuration, the host and the schedule are not
the engine's to reset (log entry 21); the working registers have no reset value in the spec (log entry 4). -/
def resetEngine (s : State) : State :=
  { s with
    sm := []
    cursor := s.cfg.nwords
    seeded := false
    halted := false
    pend := none
    din := 0
    dout0 := 0
    dout1 := 0
    sticky := false
    overrun := false
    err := 0
    regenCount := 0
    dp := Datapath.zero }

/-- The model-level copy of an instance's state tuple into another instance of the same size
(43_extraction.md R169, 92_eei_decisions.md D23); `none` where the sizes differ. The other instance keeps
its window address, its host and its schedule. R169's tuple does not list the working registers: the copy takes
the source's (log entry 23, DESIGN CHOICE). -/
def cloneInto (src dst : State) : Option State :=
  if src.cfg.mexp = dst.cfg.mexp ∧ src.cfg.params = dst.cfg.params then
    some { src with
      cfg := dst.cfg
      host := dst.host
      sched := dst.sched
      freeIx := dst.freeIx }
  else none

/-- The answer of an operation that reads SM: a fault where it would have read an unset block
(10_state.md R32, log entry 10). -/
def orUnset (r : Option State) : Host.Outcome State Fault Refusal :=
  match r with
  | some t => .next t
  | none => .fault .smUnset

end Sys2Proof.Machine
end

