-- ==== Sys2Proof/Machine/Port.lean ====
section
/-! DEFINITION. The host's side of the interface window: which register an access reaches, and what a read
and a write do (10_state.md R37 to R47, 20_memory.md R68 to R70). -/

namespace Sys2Proof.Machine

/-- The interface registers (10_state.md R37). -/
inductive Reg where
  | cmd | din | dout0 | dout1 | status | cursor | mexp | nblk | regenCount
  deriving DecidableEq, Repr

/-- A register's byte offset from BASE (10_state.md R37). -/
def Reg.offset : Reg → Nat
  | .cmd => 0x00
  | .din => 0x04
  | .dout0 => 0x08
  | .dout1 => 0x0C
  | .status => 0x10
  | .cursor => 0x14
  | .mexp => 0x18
  | .nblk => 0x1C
  | .regenCount => 0x20

/-- The register at an offset; the rest of the window is reserved (10_state.md R47). -/
def regAt : Nat → Option Reg
  | 0x00 => some .cmd
  | 0x04 => some .din
  | 0x08 => some .dout0
  | 0x0C => some .dout1
  | 0x10 => some .status
  | 0x14 => some .cursor
  | 0x18 => some .mexp
  | 0x1C => some .nblk
  | 0x20 => some .regenCount
  | _ => none

/-- What a read of a register returns; no read has a side effect (20_memory.md R69). CURSOR holds its value
in bits 15:0 (10_state.md R43; log entry 17). -/
def readReg (s : State) : Reg → Word32
  | .cmd => 0
  | .din => s.din
  | .dout0 => s.dout0
  | .dout1 => s.dout1
  | .status => statusWord s
  | .cursor => (BitVec.ofNat 16 s.cursor).setWidth 32
  | .mexp => BitVec.ofNat 32 s.cfg.mexp.toNat
  | .nblk => BitVec.ofNat 32 s.cfg.nblk
  | .regenCount => s.regenCount

/-- What a write of a register does (10_state.md R38, R39, R42); a write to a read-only register is
ignored (20_memory.md R69). -/
def writeReg (s : State) (w : Word32) : Reg → State
  | .cmd => if busy s then setOverrun s else { s with pend := some w }
  | .din => if busy s then setOverrun s else { s with din := w }
  | .status => writeStatus s w
  | .dout0 => s
  | .dout1 => s
  | .cursor => s
  | .mexp => s
  | .nblk => s
  | .regenCount => s

/-- A width in bytes. -/
def Width.bytes : Width → Nat
  | .w8 => 1
  | .w16 => 2
  | .w32 => 4
  | .w64 => 8

/-- Where an access goes. -/
inductive Target where
  /-- an aligned 32-bit access at an offset of the window -/
  | window (off : Nat)
  /-- no byte of it lies in the window -/
  | outside
  /-- it touches the window and is not an aligned 32-bit access -/
  | malformed
  deriving DecidableEq, Repr

/-- The window is [BASE, BASE+0x40) (20_memory.md R70); within it only aligned 32-bit accesses are modelled
(R68), and an access that touches no byte of it does not reach the engine (10_state.md R47; log entry 14). -/
def target (base : Nat) (a : Access) : Target :=
  if a.addr + a.width.bytes ≤ base ∨ base + 0x40 ≤ a.addr then .outside
  else if a.width = .w32 ∧ base ≤ a.addr ∧ (a.addr - base) % 4 = 0 then .window (a.addr - base)
  else .malformed

/-- A value cut to the width of an access, in the 64 bits of a host variable (log entry 22). -/
def Width.cut (w : Width) (v : Word64) : Word64 := (v.setWidth (8 * w.bytes)).setWidth 64

/-- One host read: the value, zero-extended to the 64 bits of a host variable (log entry 22), and the state
after; `none` where the model refuses the access. A read outside the window returns a free value of the width of
the access (log entry 13, DESIGN CHOICE: the spec says nothing of it). -/
def busRead (s : State) (a : Access) : Option (Word64 × State) :=
  match target s.cfg.base a with
  | .window off =>
    match regAt off with
    | some r => some ((readReg s r).setWidth 64, s)
    | none => some (0, s)
  | .outside => some (a.width.cut (Config.outsideRead s.freeIx a.addr), { s with freeIx := s.freeIx + 1 })
  | .malformed => none

/-- One host write; `none` where the model refuses the access. -/
def busWrite (s : State) (a : Access) (w : Word32) : Option State :=
  match target s.cfg.base a with
  | .window off =>
    match regAt off with
    | some r => some (writeReg s w r)
    | none => some s
  | .outside => some s
  | .malformed => none

end Sys2Proof.Machine
end

