-- ==== Sys2Proof/Machine/Agent.lean ====
section
/-! DEFINITION. One step of the host: the next statement of its program (10_state.md R30, 30_encoding.md
R86, R87). -/

namespace Sys2Proof.Machine

/-- A host variable's value; one that no statement has set yet holds 0 (log entry 12). -/
def HostState.get (h : HostState) : HVar → Word64
  | .s => h.s
  | .lo => h.lo
  | .hi => h.hi
  | .r => h.r
  | .var n => (Cells.read h.vars n).getD 0

/-- The host with one variable set. -/
def HostState.set (h : HostState) (x : HVar) (v : Word64) : HostState :=
  match x with
  | .s => { h with s := v }
  | .lo => { h with lo := v }
  | .hi => { h with hi := v }
  | .r => { h with r := v }
  | .var n => { h with vars := Cells.write h.vars n v }

/-- `r = {hi, lo}` (00_scope.md R14, 30_encoding.md R87). -/
def pairOf (hi lo : Word64) : Word64 := (hi <<< 32) ||| (lo.setWidth 32).setWidth 64

/-- Byte `i` of a value, `r[8i+7 : 8i]` (20_memory.md R64, 43_extraction.md R164). -/
def leByte (r : Word64) (i : Nat) : Byte := r.extractLsb' (8 * i) 8

/-- Store the first `count` bytes of a value from an address on (43_extraction.md R164). -/
def putBytes (r : Word64) (addr : Nat) : (count : Nat) → Cells Byte → Cells Byte
  | 0, m => m
  | count + 1, m => Cells.write (putBytes r addr count m) (addr + count) (leByte r count)

/-- s[11:8] ≠ 0 (30_encoding.md R87, `chk`). -/
def statusFails (s : Word64) : Bool := s.extractLsb' 8 4 != 0#4

/-- The state with the host's side replaced. -/
def setHost (s : State) (h : HostState) : State := { s with host := h }

/-- One statement of the host, the rest of its program being `rest`. A read sets the whole 64-bit variable, so a
32-bit one clears its upper half (log entry 22, DESIGN CHOICE). -/
def hostStmt (s : State) (rest : List HostStmt) : HostStmt → Host.Outcome State Fault Refusal
  | .wr a v =>
    match busWrite s a v with
    | some t => .next (setHost t { s.host with prog := rest })
    | none => .refused .notAligned32
  | .rd a dst =>
    match busRead s a with
    | some q => .next (setHost q.2 ({ s.host with prog := rest }.set dst q.1))
    | none => .refused .notAligned32
  | .poll a =>
    match busRead s a with
    | some q =>
      .next (setHost q.2
        ({ s.host with prog := if q.1.getLsbD 0 then s.host.prog else rest }.set .s q.1))
    | none => .refused .notAligned32
  | .pair dst => .next (setHost s ({ s.host with prog := rest }.set dst (pairOf s.host.hi s.host.lo)))
  | .put addr count =>
    .next (setHost s { s.host with prog := rest, buf := putBytes s.host.r addr count s.host.buf })
  | .failIf =>
    .next (setHost s { s.host with prog := rest, failed := s.host.failed || statusFails s.host.s })

/-- One turn of the host; with no program left it takes no step (70_reset_and_hazards.md R240). -/
def hostTurn (s : State) : Host.Outcome State Fault Refusal :=
  match s.host.prog with
  | [] => .next s
  | p :: rest => hostStmt s rest p

end Sys2Proof.Machine
end

