-- ==== Sys2Proof/Machine/Asm.lean ====
section
/-! DEFINITION. The host assembly: the machine statements and the expansions of the pseudo-instructions
(30_encoding.md R86, R87; 43_extraction.md R164). Each takes BASE, since a statement names a register and
an access has an address. -/

namespace Sys2Proof.Machine.Asm

/-- The bus access of a register. -/
def at32 (base : Nat) (r : Reg) : Access := ⟨base + r.offset, .w32⟩

/-- `wr <REG>, <imm32>` (30_encoding.md R86). -/
def wr (base : Nat) (r : Reg) (v : Word32) : List HostStmt := [.wr (at32 base r) v]

/-- `rd <REG> -> <var>` (30_encoding.md R86). -/
def rd (base : Nat) (r : Reg) (dst : HVar) : List HostStmt := [.rd (at32 base r) dst]

/-- `wait` (30_encoding.md R87). -/
def wait (base : Nat) : List HostStmt := [.poll (at32 base .status)]

/-- The word of a command in `wr CMD, ...` (30_encoding.md R86). -/
def command (base : Nat) (w : Word32) : List HostStmt := wr base .cmd w

/-- `seed32 <imm32>` (30_encoding.md R87). -/
def seed32 (base : Nat) (v : Word32) : List HostStmt :=
  wr base .din v ++ command base 0x00000001#32 ++ wait base

/-- `get32 -> <r>` (30_encoding.md R87). -/
def get32 (base : Nat) (dst : HVar) : List HostStmt :=
  command base 0x00000002#32 ++ wait base ++ rd base .dout0 dst

/-- `get64 -> <r>` (30_encoding.md R87). -/
def get64 (base : Nat) (dst : HVar) : List HostStmt :=
  command base 0x00000003#32 ++ wait base ++ rd base .dout0 .lo ++ rd base .dout1 .hi ++ [.pair dst]

/-- The u32 of a 4-byte seed (20_memory.md R65). -/
def seedOfBytes (b0 b1 b2 b3 : Byte) : Word32 :=
  b0.setWidth 32 ||| (b1.setWidth 32 <<< 8) ||| (b2.setWidth 32 <<< 16) ||| (b3.setWidth 32 <<< 24)

/-- `seedbytes4` (30_encoding.md R87, 20_memory.md R65). -/
def seedbytes4 (base : Nat) (b0 b1 b2 b3 : Byte) : List HostStmt := seed32 base (seedOfBytes b0 b1 b2 b3)

/-- `seedbytes8`: bytes b4..b7 are not used (30_encoding.md R87, 20_memory.md R65). -/
def seedbytes8 (base : Nat) (b0 b1 b2 b3 _b4 _b5 _b6 _b7 : Byte) : List HostStmt :=
  seedbytes4 base b0 b1 b2 b3

/-- `clrerr` (30_encoding.md R87). -/
def clrerr (base : Nat) : List HostStmt := wr base .status 0x0000000C#32

/-- `chk` (30_encoding.md R87). -/
def chk (base : Nat) : List HostStmt := rd base .status .s ++ [.failIf]

end Sys2Proof.Machine.Asm

namespace Sys2Proof.Machine

/-- FILL_DECOMP (43_extraction.md R164, 00_scope.md R12). -/
inductive FillDecomp where
  | u64ThenTail | u32Only
  deriving DecidableEq, Repr

/-- The default of FILL_DECOMP (00_scope.md R12, 43_extraction.md R164). -/
def defaultFillDecomp : FillDecomp := .u64ThenTail

end Sys2Proof.Machine

namespace Sys2Proof.Machine.Asm

/-- `n` whole 64-bit reads, the i-th stored at `buf + 8i`. -/
def fill64 (base buf : Nat) : (n : Nat) → List HostStmt
  | 0 => []
  | n + 1 => fill64 base buf n ++ get64 base .r ++ [.put (buf + 8 * n) 8]

/-- `n` whole 32-bit reads, the i-th stored at `buf + 4i`. -/
def fill32 (base buf : Nat) : (n : Nat) → List HostStmt
  | 0 => []
  | n + 1 => fill32 base buf n ++ get32 base .r ++ [.put (buf + 4 * n) 4]

/-- The tail of U64_THEN_TAIL: one get64 for 5 to 7 bytes, one get32 for 1 to 4, nothing for 0. -/
def fillTail (base addr rem : Nat) : List HostStmt :=
  if rem > 4 then get64 base .r ++ [.put addr rem]
  else if rem > 0 then get32 base .r ++ [.put addr rem]
  else []

/-- `fill <L> -> <buf>` (43_extraction.md R164); without a FILL_DECOMP it is the default one. -/
def fill (base len buf : Nat) (decomp : FillDecomp := defaultFillDecomp) : List HostStmt :=
  match decomp with
  | .u64ThenTail => fill64 base buf (len / 8) ++ fillTail base (buf + 8 * (len / 8)) (len % 8)
  | .u32Only => fill32 base buf (len / 4) ++ fillTail base (buf + 4 * (len / 4)) (len % 4)

end Sys2Proof.Machine.Asm
end

