-- ==== Sys2Proof/Machine/LaneVector.lean ====
section
/-! DEFINITION. The lane-vector family: VAND, VXOR, VSRL32, VSLL32, VSRLB, VSLLB
(40_lane_vector.md R101 to R106). Each reads its operands and writes only its result. -/

namespace Sys2Proof.Machine

/-- VAND (40_lane_vector.md R101). -/
def execVand (dst : VReg) (u w : VSrc) (s : State) : Host.Outcome State Fault Refusal :=
  .next (setVReg s dst (vand (readSrc s u) (readSrc s w)))

/-- VXOR (40_lane_vector.md R102). -/
def execVxor (dst : VReg) (u w : VSrc) (s : State) : Host.Outcome State Fault Refusal :=
  .next (setVReg s dst (vxor (readSrc s u) (readSrc s w)))

/-- VSRL32 (40_lane_vector.md R103). -/
def execVsrl32 (dst : VReg) (u : VSrc) (k : Nat) (s : State) : Host.Outcome State Fault Refusal :=
  .next (setVReg s dst (vsrl32 (readSrc s u) k))

/-- VSLL32 (40_lane_vector.md R104). -/
def execVsll32 (dst : VReg) (u : VSrc) (k : Nat) (s : State) : Host.Outcome State Fault Refusal :=
  .next (setVReg s dst (vsll32 (readSrc s u) k))

/-- VSRLB (40_lane_vector.md R105). -/
def execVsrlb (dst : VReg) (u : VSrc) (k : Nat) (s : State) : Host.Outcome State Fault Refusal :=
  .next (setVReg s dst (vsrlb (readSrc s u) k))

/-- VSLLB (40_lane_vector.md R106). -/
def execVsllb (dst : VReg) (u : VSrc) (k : Nat) (s : State) : Host.Outcome State Fault Refusal :=
  .next (setVReg s dst (vsllb (readSrc s u) k))

end Sys2Proof.Machine
end

