-- ==== Sys2Proof/Machine/Recurrence.lean ====
section
/-! DEFINITION. The block recurrence RECUR and the regeneration pass REGEN (41_recurrence.md). -/

namespace Sys2Proof.Machine

/-- RECUR on the working registers, line by line as 41_recurrence.md R120 writes it; `v` is not masked
(90_conflicts.md C1). The second component is the value the rule returns. -/
def recurOp (p : ParameterSet) (d0 : Datapath) : Datapath × Block :=
  let d1 := d0.set .y (vsrl32 d0.b p.sr1)
  let d2 := d1.set .z (vsrlb d1.c p.sr2)
  let d3 := d2.set .v (vsll32 d2.d p.sl1)
  let d4 := d3.set .z (vxor d3.z d3.a)
  let d5 := d4.set .z (vxor d4.z d4.v)
  let d6 := d5.set .x (vsllb d5.a p.sl2)
  let d7 := d6.set .y (vand d6.y (maskOf p))
  let d8 := d7.set .z (vxor d7.z d7.x)
  (d8, vxor d8.z d8.y)

/-- The closed form of RECUR (41_recurrence.md R121). -/
def recurClosed (p : ParameterSet) (a b c d : Block) : Block :=
  a ^^^ vsllb a p.sl2 ^^^ (vsrl32 b p.sr1 &&& maskOf p) ^^^ vsrlb c p.sr2 ^^^ vsll32 d p.sl1

/-- RECUR: the result goes to `dst` (41_recurrence.md R120; log entry 6). -/
def execRecur (dst : VReg) (s : State) : Host.Outcome State Fault Refusal :=
  .next { s with dp := ((recurOp s.cfg.params s.dp).1).set dst (recurOp s.cfg.params s.dp).2 }

/-- `j = (i + POS1) mod N`, "wrapped exactly once" (41_recurrence.md R122, R123). -/
def partner (n pos1 i : Nat) : Nat := if i + pos1 ≥ n then i + pos1 - n else i + pos1

/-- One round of REGEN's loop at index `i` (41_recurrence.md R122): `b` is read from SM as it stands now
(R124). `none` where a block to be read is unset. -/
def regenRound (p : ParameterSet) (n i : Nat) (d : Datapath) (m : Memory) : Option (Datapath × Memory) :=
  match m.block i, m.block (partner n p.pos1 i) with
  | some av, some bv =>
    let q := recurOp p { d with a := av, b := bv, c := d.r1, d := d.r2 }
    some ({ q.1 with r1 := q.1.r2, r2 := q.2 }, m.setBlock i q.2)
  | _, _ => none

/-- `cnt` rounds from index `i` on, in increasing order (41_recurrence.md R122). -/
def regenLoop (p : ParameterSet) (n : Nat) : (cnt i : Nat) → Datapath → Memory → Option (Datapath × Memory)
  | 0, _, d, m => some (d, m)
  | cnt + 1, i, d, m =>
    match regenRound p n i d m with
    | some q => regenLoop p n cnt (i + 1) q.1 q.2
    | none => none

/-- REGEN (41_recurrence.md R122). -/
def regenOp (s : State) : Option State :=
  match s.sm.block (s.cfg.nblk - 2), s.sm.block (s.cfg.nblk - 1) with
  | some v1, some v2 =>
    match regenLoop s.cfg.params s.cfg.nblk s.cfg.nblk 0 { s.dp with r1 := v1, r2 := v2 } s.sm with
    | some q => some { s with sm := q.2, dp := q.1, cursor := 0, regenCount := s.regenCount + 1 }
    | none => none
  | _, _ => none

/-- REGEN as an internal operation. -/
def execRegen (s : State) : Host.Outcome State Fault Refusal := orUnset (regenOp s)

end Sys2Proof.Machine
end

