-- ==== Sys2Proof/Machine/SeedCertify.lean ====
section
/-! DEFINITION. Seed expansion EXPAND, period certification CERTIFY and the SEED command
(42_seed_certify.md). -/

namespace Sys2Proof.Machine

/-- `next(prev, t) = (1812433253 * (prev ^ (prev >> 30)) + t) mod 2^32`, the shift logical
(42_seed_certify.md R142, 90_conflicts.md C3). -/
def seedMix (prev : Word32) (t : Nat) : Word32 :=
  1812433253#32 * (prev ^^^ (prev >>> 30)) + BitVec.ofNat 32 t

/-- `w[t]` of the expansion of a seed (42_seed_certify.md R142). -/
def seedWord (s : Word32) : Nat → Word32
  | 0 => s
  | t + 1 => seedMix (seedWord s t) (t + 1)

/-- The four words of a block in chain: lane 0, then each lane from the lane before (42_seed_certify.md
R143). -/
def seedChain (k : Nat) (l0 : Word32) : Word32 × Word32 × Word32 × Word32 :=
  let l1 := seedMix l0 (4 * k + 1)
  let l2 := seedMix l1 (4 * k + 2)
  let l3 := seedMix l2 (4 * k + 3)
  (l0, l1, l2, l3)

/-- `cnt` blocks from block `k` on, whose lane 0 is `l0`; block k+1 starts from lane 3 (42_seed_certify.md
R143, 90_conflicts.md C2). The first component is the last word made, which the register w keeps. -/
def expandLoop : (cnt k : Nat) → (l0 : Word32) → Memory → Word32 × Memory
  | 0, _, l0, m => (l0, m)
  | cnt + 1, k, l0, m =>
    let q := seedChain k l0
    let m' := m.setBlock k (lanes q.1 q.2.1 q.2.2.1 q.2.2.2)
    if cnt = 0 then (q.2.2.2, m') else expandLoop cnt (k + 1) (seedMix q.2.2.2 (4 * k + 4)) m'

/-- EXPAND(s) (42_seed_certify.md R142). -/
def expandOp (seed : Word32) (s : State) : State :=
  let q := expandLoop s.cfg.nblk 0 seed s.sm
  { s with sm := q.2, dp := { s.dp with w := q.1 } }

/-- EXPAND as an internal operation. -/
def execExpand (seed : Word32) (s : State) : Host.Outcome State Fault Refusal := .next (expandOp seed s)

/-- `inner`, the fold of the lanes of block 0 with the parity constants (42_seed_certify.md R144). -/
def innerOf (p : ParameterSet) (v : Block) : Word32 :=
  (lane v 0 &&& paramParity p 0) ^^^ (lane v 1 &&& paramParity p 1) ^^^
    (lane v 2 &&& paramParity p 2) ^^^ (lane v 3 &&& paramParity p 3)

/-- The lane and bit that an even certification flips: the first non-zero constant and its lowest set
bit, whatever the lane holds (42_seed_certify.md R144, 90_conflicts.md C4). -/
def certifyTarget (p : ParameterSet) : Option (Nat × Nat) :=
  (List.range 4).findSome? fun l => (lowestSetBit (paramParity p l)).map fun j => (l, j)

/-- Block 0 after CERTIFY (42_seed_certify.md R144). With no non-zero parity constant, which no well-formed
ParameterSet has, nothing changes (log entry 18). -/
def certifyBlock (p : ParameterSet) (v : Block) : Block :=
  if popcount (innerOf p v) % 2 = 1 then v
  else
    match certifyTarget p with
    | some (l, j) => setLane v l (lane v l ^^^ (1#32 <<< j))
    | none => v

/-- CERTIFY (42_seed_certify.md R144). -/
def certifyOp (s : State) : Option State :=
  match s.sm.block 0 with
  | some v =>
    some { s with
      sm := s.sm.setBlock 0 (certifyBlock s.cfg.params v)
      dp := { s.dp with inner := innerOf s.cfg.params v } }
  | none => none

/-- CERTIFY as an internal operation. -/
def execCertify (s : State) : Host.Outcome State Fault Refusal := orUnset (certifyOp s)

/-- SEED (42_seed_certify.md R140): EXPAND, then the cursor, then CERTIFY, then `seeded`; it raises no
error. -/
def seedOp (s : State) : Option State :=
  match certifyOp { expandOp s.din s with cursor := s.cfg.nwords } with
  | some t => some (complete .ok { t with seeded := true })
  | none => none

/-- SEED as a command. -/
def execSeed (s : State) : Host.Outcome State Fault Refusal := orUnset (seedOp s)

end Sys2Proof.Machine
end

