-- ==== Sys2Proof/Machine/Extraction.lean ====
section
/-! DEFINITION. The extraction commands NEXT32 and NEXT64 (43_extraction.md R160, R161). -/

namespace Sys2Proof.Machine

/-- The regeneration check of a read: REGEN first when the cursor has reached `limit`
(41_recurrence.md R126). -/
def regenFrom (limit : Nat) (s : State) : Option State :=
  if s.cursor ≥ limit then regenOp s else some s

/-- NEXT32 on a seeded engine (43_extraction.md R160). -/
def pop32 (s : State) : Option State :=
  match regenFrom s.cfg.nwords s with
  | some t =>
    match t.sm.w32 t.cursor with
    | some r => some (complete .ok { t with cursor := t.cursor + 1, dout0 := r, dout1 := 0 })
    | none => none
  | none => none

/-- NEXT64 on a seeded engine (43_extraction.md R161). -/
def pop64 (s : State) : Option State :=
  match regenFrom (s.cfg.nwords - 1) s with
  | some t =>
    match t.sm.w64 t.cursor with
    | some r =>
      some (complete .ok
        { t with cursor := t.cursor + 2, dout0 := r.extractLsb' 0 32, dout1 := r.extractLsb' 32 32 })
    | none => none
  | none => none

/-- NEXT32; before any SEED it ends with ERR_UNSEEDED (43_extraction.md R160, 60_exceptions.md R203). -/
def execNext32 (s : State) : Host.Outcome State Fault Refusal :=
  if s.seeded then orUnset (pop32 s) else .next (complete .unseeded s)

/-- NEXT64; before any SEED it ends with ERR_UNSEEDED (43_extraction.md R161, 60_exceptions.md R203). -/
def execNext64 (s : State) : Host.Outcome State Fault Refusal :=
  if s.seeded then orUnset (pop64 s) else .next (complete .unseeded s)

end Sys2Proof.Machine
end

