-- ==== Sys2Proof/Machine/Dispatch.lean ====
section
/-! DEFINITION. One arm per instruction. -/

namespace Sys2Proof.Machine

def exec (i : Instr) (s : State) : Host.Outcome State Fault Refusal :=
  match i with
  | .seed => Sys2Proof.Machine.execSeed s
  | .next32 => Sys2Proof.Machine.execNext32 s
  | .next64 => Sys2Proof.Machine.execNext64 s
  | .vand dst u w => Sys2Proof.Machine.execVand dst u w s
  | .vxor dst u w => Sys2Proof.Machine.execVxor dst u w s
  | .vsrl32 dst u k => Sys2Proof.Machine.execVsrl32 dst u k s
  | .vsll32 dst u k => Sys2Proof.Machine.execVsll32 dst u k s
  | .vsrlb dst u k => Sys2Proof.Machine.execVsrlb dst u k s
  | .vsllb dst u k => Sys2Proof.Machine.execVsllb dst u k s
  | .recur dst => Sys2Proof.Machine.execRecur dst s
  | .regen => Sys2Proof.Machine.execRegen s
  | .expand seed => Sys2Proof.Machine.execExpand seed s
  | .certify => Sys2Proof.Machine.execCertify s

end Sys2Proof.Machine
end

