-- ==== Sys2Proof/Machine/Engine.lean ====
section
/-! DEFINITION. The engine's step (30_encoding.md R90), the choice of who moves next
(70_reset_and_hazards.md R237), and placing a command. -/

namespace Sys2Proof.Machine

/-- Whether the engine has a step: "When PEND holds a word `w` and `halted` = 0" (30_encoding.md R90). -/
def engineReady (s : State) : Bool := s.pend.isSome && !s.halted

/-- Run the command word `w`: the DEFECT check comes before decoding (30_encoding.md R90, 60_exceptions.md
R207); a word that names no command completes with ERR_ILLEGAL (60_exceptions.md R202). -/
def runWord (w : Word32) (s : State) : Host.Outcome State Fault Refusal :=
  if s.cursor > s.cfg.nwords then .next (defect s)
  else
    match decode w with
    | .command i => exec i s
    | .illegal _ => .next (complete .illegal s)

/-- One turn of the engine. With PEND empty it has no step (30_encoding.md R90), and once halted it takes
none until reset (10_state.md R35): the turn passes (log entry 8). -/
def engineTurn (s : State) : Host.Outcome State Fault Refusal :=
  match s.pend with
  | none => .next s
  | some w => if s.halted then .next s else runWord w s

/-- The turn `t` in state `s`. -/
def takeTurn (t : Turn) (s : State) : Host.Outcome State Fault Refusal :=
  match t with
  | .host => hostTurn s
  | .engine => engineTurn s
  | .reset => .next (resetEngine s)

/-- The next step: the first scheduled turn; with no turn scheduled, the engine if it has a step, else the
host (log entry 7). -/
def advance (s : State) : Host.Outcome State Fault Refusal :=
  match s.sched with
  | t :: rest => takeTurn t { s with sched := rest }
  | [] => if engineReady s then engineTurn s else hostTurn s

/-- `s` with a command word accepted into PEND and the engine's turn next, in a state in which the engine
takes it: not halted, the cursor within range (log entry 15). -/
def placeWord (s : State) (w : Word32) : State :=
  { s with
    pend := some w
    halted := false
    cursor := min s.cursor s.cfg.nwords
    sched := .engine :: s.sched }

end Sys2Proof.Machine
end

