-- ==== Sys2Proof/Machine/Step.lean ====
section
/-! DEFINITION. One step of the whole machine, and the state in which it runs a given command word next. -/

namespace Sys2Proof.Machine

/-- One atomic event of the single order of 20_memory.md R72. -/
def step (s : State) : Host.Outcome State Fault Refusal := advance s

/-- `s` with the command word given by its `nbits` low bits where the engine takes its next command. -/
def State.withFetchWord (s : State) (nbits w : Nat) : State :=
  placeWord s (BitVec.ofNat 32 (w % 2 ^ nbits))

end Sys2Proof.Machine
end

