-- ==== Sys2Proof/Safety.lean ====
section
/-! DEFINITION. What counts as a safe run, in the terms claims use: the invariant of 10_state.md R55, runs of
instructions, and what a run shows a host. -/

namespace Sys2Proof.Machine

/-- The invariants of 10_state.md R55, with those of the model's own data (canonical forms, the index range
of 20_memory.md R60) and the result codes of 60_exceptions.md R201 that a running engine can hold. -/
structure State.Inv (s : State) : Prop where
  config : s.cfg.wf
  cursorInRange : s.cursor ≤ s.cfg.nwords
  seededFull : s.seeded = true → s.sm.full s.cfg.nblk = true
  unseededEmpty : s.seeded = false → s.cursor = s.cfg.nwords ∧ s.sm = []
  running : s.halted = false
  canonical : Memory.wf s.sm
  within : s.sm.within s.cfg.nblk = true
  code : s.err = ErrCode.ok.bits ∨ s.err = ErrCode.illegal.bits ∨ s.err = ErrCode.unseeded.bits
  varsCanonical : Cells.wf s.host.vars
  bufCanonical : Cells.wf s.host.buf

/-- The instructions a host can issue (30_encoding.md R82). -/
def isHostCommand : Instr → Bool
  | .seed => true
  | .next32 => true
  | .next64 => true
  | .vand _ _ _ => false
  | .vxor _ _ _ => false
  | .vsrl32 _ _ _ => false
  | .vsll32 _ _ _ => false
  | .vsrlb _ _ _ => false
  | .vsllb _ _ _ => false
  | .recur _ => false
  | .regen => false
  | .expand _ => false
  | .certify => false

/-- Run instructions one after another, stopping at the first that does not answer a next state. -/
def runInstrs : List Instr → State → Host.Outcome State Fault Refusal
  | [], s => .next s
  | i :: is, s =>
    match exec i s with
    | .next t => runInstrs is t
    | .fault f => .fault f
    | .refused f => .refused f

/-- What a host reads after each of a list of commands: ERR, DOUT0 and DOUT1. -/
def outputs : List Instr → State → List (BitVec 4 × Word32 × Word32)
  | [], _ => []
  | i :: is, s =>
    match exec i s with
    | .next t => (t.err, t.dout0, t.dout1) :: outputs is t
    | .fault _ => []
    | .refused _ => []

/-- The turn `t` comes next in `s`, and `u` is `s` with that turn used up: it is the first one scheduled, or, with
no turn scheduled, the default one (log entry 7, DESIGN CHOICE), which uses nothing up. -/
def TurnNext (t : Turn) (s u : State) : Prop :=
  (∃ rest, s.sched = t :: rest ∧ u = { s with sched := rest }) ∨
    (s.sched = [] ∧ t = (if engineReady s then .engine else .host) ∧ u = s)

/-- The access a host statement makes, if it makes one (30_encoding.md R86, R87). -/
def accessOf : HostStmt → Option Access
  | .wr a _ => some a
  | .rd a _ => some a
  | .poll a => some a
  | .pair _ => none
  | .put _ _ => none
  | .failIf => none

/-- An access that touches the window at `base` and is not an aligned 32-bit one (20_memory.md R68; that one
which straddles an end of the window is among them is log entry 14, DESIGN CHOICE). -/
def MalformedAccess (base : Nat) (a : Access) : Prop :=
  base < a.addr + a.width.bytes ∧ a.addr < base + 0x40 ∧ ¬ ∃ k, k < 16 ∧ a = ⟨base + 4 * k, .w32⟩

/-- The host's turn comes next, and its next statement makes such an access. -/
def MalformedNext (s : State) : Prop :=
  ∃ u p rest a, TurnNext .host s u ∧ s.host.prog = p :: rest ∧ accessOf p = some a ∧ MalformedAccess s.cfg.base a

/-- The buffer addresses a host statement stores to, in order (43_extraction.md R164). -/
def storedAt : HostStmt → List Nat
  | .put addr count => (List.range count).map (addr + ·)
  | .wr _ _ => []
  | .rd _ _ => []
  | .poll _ => []
  | .pair _ => []
  | .failIf => []

/-- The command word a host statement issues: a write to CMD, which lies at offset 0 (30_encoding.md R86). -/
def commandWord (base : Nat) : HostStmt → Option Word32
  | .wr a w => if a = ⟨base, .w32⟩ then some w else none
  | .rd _ _ => none
  | .poll _ => none
  | .pair _ => none
  | .put _ _ => none
  | .failIf => none

/-- `RECUR(a, b, c, d)` as a value (41_recurrence.md R120). -/
def recurValue (p : ParameterSet) (a b c d : Block) : Block :=
  (recurOp p { Datapath.zero with a := a, b := b, c := c, d := d }).2

/-- The outcome `o` of an instruction run in `s` is a next state in which the working register `dst` holds
`e` and nothing else has changed. -/
def SetsOnly (s : State) (o : Host.Outcome State Fault Refusal) (dst : VReg) (e : Block) : Prop :=
  ∃ t, o = .next t ∧ t.dp.get dst = e ∧ (∀ r, r ≠ dst → t.dp.get r = s.dp.get r) ∧
    t.dp.w = s.dp.w ∧ t.dp.inner = s.dp.inner ∧ { t with dp := s.dp } = s

/-- The engine's side of two states is the same but for STATUS.OVERRUN, PEND and DIN, which are all of it a
host access can change (70_reset_and_hazards.md R234). -/
def SameResults (s t : State) : Prop :=
  t.sm = s.sm ∧ t.cursor = s.cursor ∧ t.seeded = s.seeded ∧ t.halted = s.halted ∧ t.dout0 = s.dout0 ∧
    t.dout1 = s.dout1 ∧ t.err = s.err ∧ t.regenCount = s.regenCount ∧ t.dp = s.dp ∧ t.cfg = s.cfg

end Sys2Proof.Machine
end

