-- ==== Sys2Proof/Certificates/Slice0/Obligations.lean ====
section
/-! DEFINITION. The statements for the provers. -/

open Sys2Proof Sys2Proof.Machine

/-! ## Configuration -/

/-- 60_exceptions.md R209: an instance exists exactly for a supported size with a legal ParameterSet. -/
def Obligations.ElaborationAcceptsExactlyLegalConfigurations : Prop :=
  ∀ (n : Nat) (p : ParameterSet) (base : Nat),
    (∀ c, elaborate n p base = some c ↔
      c.mexp.toNat = n ∧ c.params = p ∧ c.base = base ∧ c.wf) ∧
    (n ∉ [607, 1279, 2281, 4253, 11213, 19937, 44497, 86243, 132049, 216091] → elaborate n p base = none)

/-- 00_scope.md R9, R10, R11: the derived sizes of the table, and that every row meets the legal ranges
(the ranges are decision D22, the rows are log entry 2). -/
def Obligations.DefaultTableRowsAreLegal : Prop :=
  ∀ m base, base % 4 = 0 → (Config.mk m (defaultParams m) base).wf ∧
    ((Config.mk m (defaultParams m) base).nblk, (Config.mk m (defaultParams m) base).nwords) =
      (match m with
        | .m607 => (5, 20)
        | .m1279 => (10, 40)
        | .m2281 => (18, 72)
        | .m4253 => (34, 136)
        | .m11213 => (88, 352)
        | .m19937 => (156, 624)
        | .m44497 => (348, 1392)
        | .m86243 => (674, 2696)
        | .m132049 => (1032, 4128)
        | .m216091 => (1689, 6756))

/-! ## Encoding -/

/-- 30_encoding.md R85. -/
def Obligations.DecoderIsTheOpcodeMap : Prop :=
  decode 0x00000001#32 = .command .seed ∧ decode 0x00000002#32 = .command .next32 ∧
    decode 0x00000003#32 = .command .next64 ∧
    ∀ w, w ≠ 0x00000001#32 → w ≠ 0x00000002#32 → w ≠ 0x00000003#32 → ∃ y, decode w = .illegal y

/-- 30_encoding.md R80, R82, R88: encoder and decoder are inverse to each other, and the instructions that
have a command word are exactly those a host can issue. -/
def Obligations.DecodeAndEncodeAgree : Prop :=
  (∀ i w, encode i = some w ↔ decode w = .command i) ∧ (∀ i, isHostCommand i = true ↔ ∃ w, encode i = some w)

/-! ## Lane-vector ALU -/

/-- 40_lane_vector.md R101, R102. -/
def Obligations.LaneLogicIsBitwise : Prop :=
  (∀ u w : Block, vand u w = u &&& w ∧ (∀ l, l < 4 → lane (vand u w) l = lane u l &&& lane w l) ∧
    vand u 0 = 0 ∧ vand u (~~~ 0) = u ∧ vand u u = u) ∧
  (∀ u w : Block, vxor u w = u ^^^ w ∧ (∀ l, l < 4 → lane (vxor u w) l = lane u l ^^^ lane w l) ∧
    vxor u u = 0 ∧ vxor u 0 = u ∧ vxor u w = vxor w u ∧ ∀ t, vxor (vxor u w) t = vxor u (vxor w t)) ∧
  vand (lanes 0x89abcdef 0x01234567 0xfedcba98 0x76543210) (lanes 0xffffffff 0x80000000 0x00000001 0x12345678) =
    lanes 0x89abcdef 0x00000000 0x00000000 0x12141210 ∧
  vxor (lanes 0x89abcdef 0x01234567 0xfedcba98 0x76543210) (lanes 0xffffffff 0x80000000 0x00000001 0x12345678) =
    lanes 0x76543210 0x81234567 0xfedcba99 0x64606468 ∧
  ∀ dst a b, encode (.vand dst a b) = none ∧ encode (.vxor dst a b) = none

/-- 40_lane_vector.md R103, R104: each lane is shifted on its own, bit by bit. -/
def Obligations.LaneShiftsStayInTheirLane : Prop :=
  (∀ (u : Block) (k l i : Nat), l < 4 → i < 32 →
    (lane (vsrl32 u k) l).getLsbD i = (decide (i + k < 32) && (lane u l).getLsbD (i + k)) ∧
    (lane (vsll32 u k) l).getLsbD i = (decide (k ≤ i) && (lane u l).getLsbD (i - k))) ∧
  (∀ u, vsrl32 u 0 = u ∧ vsll32 u 0 = u) ∧
  (∀ u k, 32 ≤ k → vsrl32 u k = 0 ∧ vsll32 u k = 0) ∧
  vsrl32 (lanes 0x89abcdef 0x01234567 0xfedcba98 0x76543210) 11 =
    lanes 0x00113579 0x00002468 0x001fdb97 0x000eca86 ∧
  vsll32 (lanes 0x89abcdef 0x01234567 0xfedcba98 0x76543210) 18 =
    lanes 0x37bc0000 0x159c0000 0xea600000 0xc8400000 ∧
  ∀ dst a k, encode (.vsrl32 dst a k) = none ∧ encode (.vsll32 dst a k) = none

/-- 40_lane_vector.md R105, R106: the whole vector is shifted, so bytes cross lanes. -/
def Obligations.ByteShiftsMoveWholeBytes : Prop :=
  (∀ (u : Block) (k : Nat), vsrlb u k = u >>> (8 * k) ∧ vsllb u k = u <<< (8 * k) ∧
    ∀ j, j < 16 → blockByte (vsrlb u k) j = (if j + k ≤ 15 then blockByte u (j + k) else 0) ∧
      blockByte (vsllb u k) j = (if k ≤ j then blockByte u (j - k) else 0)) ∧
  (∀ u, vsrlb u 0 = u ∧ vsllb u 0 = u) ∧
  (∀ u k, 16 ≤ k → vsrlb u k = 0 ∧ vsllb u k = 0) ∧
  vsrlb (lanes 0x89abcdef 0x01234567 0xfedcba98 0x76543210) 1 =
    lanes 0x6789abcd 0x98012345 0x10fedcba 0x00765432 ∧
  vsllb (lanes 0x89abcdef 0x01234567 0xfedcba98 0x76543210) 1 =
    lanes 0xabcdef00 0x23456789 0xdcba9801 0x543210fe ∧
  ∀ dst a k, encode (.vsrlb dst a k) = none ∧ encode (.vsllb dst a k) = none

/-- 40_lane_vector.md R100 to R107: every lane-vector instruction completes in every state, writes its result
and nothing else. The destination and source operands are the model's (log entry 6). -/
def Obligations.LaneOperationsWriteOnlyTheirResult : Prop :=
  ∀ (s : State) (dst : VReg) (u w : VSrc) (k : Nat),
    SetsOnly s (exec (.vand dst u w) s) dst (vand (readSrc s u) (readSrc s w)) ∧
    SetsOnly s (exec (.vxor dst u w) s) dst (vxor (readSrc s u) (readSrc s w)) ∧
    SetsOnly s (exec (.vsrl32 dst u k) s) dst (vsrl32 (readSrc s u) k) ∧
    SetsOnly s (exec (.vsll32 dst u k) s) dst (vsll32 (readSrc s u) k) ∧
    SetsOnly s (exec (.vsrlb dst u k) s) dst (vsrlb (readSrc s u) k) ∧
    SetsOnly s (exec (.vsllb dst u k) s) dst (vsllb (readSrc s u) k) ∧
    readSrc s .mask =
      lanes s.cfg.params.msk1 s.cfg.params.msk2 s.cfg.params.msk3 s.cfg.params.msk4 ∧
    ∀ r, readSrc s (.reg r) = s.dp.get r

/-! ## Recurrence and regeneration -/

/-- 41_recurrence.md R121: the value RECUR returns, in closed form and lane by lane. -/
def Obligations.RecurLaneByLane : Prop :=
  ∀ p : ParameterSet,
    (∀ a b c d : Block, recurValue p a b c d =
      a ^^^ vsllb a p.sl2 ^^^ (vsrl32 b p.sr1 &&& maskOf p) ^^^ vsrlb c p.sr2 ^^^ vsll32 d p.sl1) ∧
    (∀ (a b c d : Block) (l : Nat), l < 4 →
      lane (recurValue p a b c d) l =
        lane a l ^^^ lane (vsllb a p.sl2) l ^^^ ((lane b l >>> p.sr1) &&& paramMsk p l) ^^^
          lane (vsrlb c p.sr2) l ^^^ (lane d l <<< p.sl1)) ∧
    paramMsk p 0 = p.msk1 ∧ paramMsk p 1 = p.msk2 ∧ paramMsk p 2 = p.msk3 ∧ paramMsk p 3 = p.msk4

/-- 41_recurrence.md R120: RECUR is linear over GF(2), and 0 on zeros. -/
def Obligations.RecurIsLinear : Prop :=
  (∀ (p : ParameterSet) (a b c d a' b' c' d' : Block),
    recurValue p (a ^^^ a') (b ^^^ b') (c ^^^ c') (d ^^^ d') =
      recurValue p a b c d ^^^ recurValue p a' b' c' d') ∧
  ∀ p, recurValue p 0 0 0 0 = 0

/-- 41_recurrence.md R120, 30_encoding.md R88: RECUR completes in every state; its result is the value of the
operands in the registers a, b, c, d; besides the destination (the model's choice, log entry 6) it writes x,
y, z and v only; and it is the run of the micro-operations the rule lists. -/
def Obligations.RecurCompletesAndRunsItsMicroOperations : Prop :=
  ∀ (s : State) (dst : VReg),
    (∃ t, exec (.recur dst) s = .next t ∧
      t.dp.get dst = recurValue s.cfg.params s.dp.a s.dp.b s.dp.c s.dp.d ∧
      (∀ r, r ≠ dst → r ≠ .x → r ≠ .y → r ≠ .z → r ≠ .v → t.dp.get r = s.dp.get r) ∧
      t.dp.w = s.dp.w ∧ t.dp.inner = s.dp.inner ∧ { t with dp := s.dp } = s) ∧
    runInstrs
      [.vsrl32 .y (.reg .b) s.cfg.params.sr1, .vsrlb .z (.reg .c) s.cfg.params.sr2,
        .vsll32 .v (.reg .d) s.cfg.params.sl1, .vxor .z (.reg .z) (.reg .a), .vxor .z (.reg .z) (.reg .v),
        .vsllb .x (.reg .a) s.cfg.params.sl2, .vand .y (.reg .y) .mask, .vxor .z (.reg .z) (.reg .x),
        .vxor dst (.reg .z) (.reg .y)] s = exec (.recur dst) s

/-- 41_recurrence.md R122: REGEN, as the rule's loop. `M i` is SM and `R1 i`, `R2 i` are r1 and r2 before
round `i`; the partner block is read from SM as it stands then. Of the registers it does not work in, w and
inner, nothing is written. -/
def Obligations.RegenIsTheInPlaceLoop : Prop :=
  ∀ s : State, s.cfg.wf → (∀ k, k < s.cfg.nblk → ∃ v, s.sm.block k = some v) →
    ∃ (M : Nat → Memory) (R1 R2 : Nat → Block) (dp : Datapath),
      M 0 = s.sm ∧ s.sm.block (s.cfg.nblk - 2) = some (R1 0) ∧ s.sm.block (s.cfg.nblk - 1) = some (R2 0) ∧
      (∀ i, i < s.cfg.nblk → ∃ a b,
        (M i).block i = some a ∧ (M i).block ((i + s.cfg.params.pos1) % s.cfg.nblk) = some b ∧
        (M (i + 1)).block i = some (recurValue s.cfg.params a b (R1 i) (R2 i)) ∧
        (∀ k, k ≠ i → (M (i + 1)).block k = (M i).block k) ∧
        R1 (i + 1) = R2 i ∧ some (R2 (i + 1)) = (M (i + 1)).block i) ∧
      dp.r1 = R1 s.cfg.nblk ∧ dp.r2 = R2 s.cfg.nblk ∧ dp.w = s.dp.w ∧ dp.inner = s.dp.inner ∧
      exec .regen s = .next { s with
        sm := M s.cfg.nblk, dp := dp, cursor := 0, regenCount := s.regenCount + 1 }

/-- 41_recurrence.md R125: the sequence form. If X continues SM by the recurrence for N terms, REGEN leaves those N
terms in SM; every other block, and everything but SM, cursor, REGEN_COUNT and the working registers,
is unchanged. -/
def Obligations.RegenYieldsTheNextGeneration : Prop :=
  ∀ (s : State) (X : Nat → Block), s.cfg.wf →
    (∀ k, k < s.cfg.nblk → s.sm.block k = some (X k)) →
    (∀ k, k < s.cfg.nblk → X (k + s.cfg.nblk) = recurValue s.cfg.params (X k) (X (k + s.cfg.params.pos1))
      (X (k + s.cfg.nblk - 2)) (X (k + s.cfg.nblk - 1))) →
    ∃ m dp, exec .regen s = .next { s with
        sm := m, dp := dp, cursor := 0, regenCount := s.regenCount + 1 } ∧
      (∀ i, i < s.cfg.nblk → m.block i = some (X (s.cfg.nblk + i))) ∧
      ∀ k, s.cfg.nblk ≤ k → m.block k = s.sm.block k

/-- 41_recurrence.md R128: an all-zero SM stays all zero. -/
def Obligations.RegenKeepsTheZeroState : Prop :=
  ∀ s : State, s.cfg.wf → (∀ k, k < s.cfg.nblk → s.sm.block k = some 0) →
    ∃ t, exec .regen s = .next t ∧ ∀ k, k < s.cfg.nblk → t.sm.block k = some 0

/-- 10_state.md R32: "No rule reads SM while it is unset". The internal operations that read SM stop there by
name, REGEN wherever one of its blocks is unset (log entry 10: the model's choice of a stop). -/
def Obligations.UnsetBlocksStopTheOperationsThatReadThem : Prop :=
  ∀ s : State, s.cfg.wf →
    ((∃ k, k < s.cfg.nblk ∧ s.sm.block k = none) → exec .regen s = .fault .smUnset) ∧
    (s.sm.block 0 = none → exec .certify s = .fault .smUnset)

/-- 41_recurrence.md R126, 10_state.md R46: the commands that regenerate, exactly when, and that each of them
counts one pass modulo 2^32; SEED and a failed command count none. -/
def Obligations.OnlyExhaustedReadsRegenerate : Prop :=
  ∀ s t : State,
    (exec .seed s = .next t → t.regenCount = s.regenCount) ∧
    (exec .next32 s = .next t → t.regenCount =
      if s.seeded = true ∧ s.cursor ≥ s.cfg.nwords then s.regenCount + 1 else s.regenCount) ∧
    (exec .next64 s = .next t → t.regenCount =
      if s.seeded = true ∧ s.cursor ≥ s.cfg.nwords - 1 then s.regenCount + 1 else s.regenCount)

/-! ## Seeding -/

/-- 42_seed_certify.md R142. -/
def Obligations.ExpandFillsEveryWord : Prop :=
  ∀ (s : State) (seed : Word32), ∃ (w : Nat → Word32) (m : Memory) (wreg : Word32),
    w 0 = seed ∧
    (∀ t, 1 ≤ t → t < s.cfg.nwords →
      w t = 1812433253#32 * (w (t - 1) ^^^ (w (t - 1) >>> 30)) + BitVec.ofNat 32 t) ∧
    exec (.expand seed) s = .next { s with sm := m, dp := { s.dp with w := wreg } } ∧
    (∀ p, p < s.cfg.nwords → m.w32 p = some (w p)) ∧
    ∀ k, s.cfg.nblk ≤ k → m.block k = s.sm.block k

/-- 42_seed_certify.md R143: the chain runs through lane 3 from block to block. -/
def Obligations.SeedChainRunsThroughLaneThree : Prop :=
  ∀ (s t : State) (seed : Word32) (k : Nat) (v : Block), exec (.expand seed) s = .next t →
    k < s.cfg.nblk → t.sm.block k = some v →
    (k = 0 → lane v 0 = seed) ∧
    lane v 1 = seedMix (lane v 0) (4 * k + 1) ∧ lane v 2 = seedMix (lane v 1) (4 * k + 2) ∧
    lane v 3 = seedMix (lane v 2) (4 * k + 3) ∧
    (k + 1 < s.cfg.nblk → ∃ v', t.sm.block (k + 1) = some v' ∧ lane v' 0 = seedMix (lane v 3) (4 * k + 4))

/-- 42_seed_certify.md R144. -/
def Obligations.CertifyFlipsTheLowestParityBitOnEvenParity : Prop :=
  ∀ (s : State) (v : Block), s.sm.block 0 = some v → s.cfg.wf →
    ∃ (m : Memory) (v' : Block) (inner : Word32),
      exec .certify s = .next { s with sm := m, dp := { s.dp with inner := inner } } ∧
      inner = (lane v 0 &&& s.cfg.params.parity1) ^^^ (lane v 1 &&& s.cfg.params.parity2) ^^^
        (lane v 2 &&& s.cfg.params.parity3) ^^^ (lane v 3 &&& s.cfg.params.parity4) ∧
      m.block 0 = some v' ∧ (∀ k, k ≠ 0 → m.block k = s.sm.block k) ∧
      (popcount inner % 2 = 1 → v' = v) ∧
      (popcount inner % 2 = 0 → ∃ l j, l < 4 ∧ j < 32 ∧
        (∀ l', l' < l → paramParity s.cfg.params l' = 0) ∧
        (paramParity s.cfg.params l).getLsbD j = true ∧
        (∀ j', j' < j → (paramParity s.cfg.params l).getLsbD j' = false) ∧
        ∀ q, q < 4 → lane v' q = if q = l then lane v q ^^^ (1#32 <<< j) else lane v q)

/-- 42_seed_certify.md R145: after CERTIFY the parity of block 0 is odd. -/
def Obligations.CertifiedParityIsOdd : Prop :=
  ∀ (s : State) (v : Block), s.cfg.wf → s.sm.block 0 = some v →
    ∃ t v', exec .certify s = .next t ∧ t.sm.block 0 = some v' ∧
      popcount (innerOf s.cfg.params v') % 2 = 1

/-- 42_seed_certify.md R147: with the default table an even certification flips bit 0 of lane 0. -/
def Obligations.DefaultTablesFlipBitZero : Prop :=
  ∀ (m : Mexp) (v : Block), popcount (innerOf (defaultParams m) v) % 2 = 0 →
    certifyBlock (defaultParams m) v = v ^^^ 1

/-- 42_seed_certify.md R140: SEED is EXPAND of DIN, then the cursor, then CERTIFY, then `seeded`; it completes
in every state with ERR 0 and writes nothing else (the working registers w and inner are those of EXPAND and
CERTIFY). -/
def Obligations.SeedExpandsThenCertifies : Prop :=
  ∀ s : State, ∃ s1 s2, exec (.expand s.din) s = .next s1 ∧
    exec .certify { s1 with cursor := s.cfg.nwords } = .next s2 ∧
    exec .seed s = .next { s2 with seeded := true, err := 0x0#4, pend := none } ∧
    s2 = { s with sm := s2.sm, dp := s2.dp, cursor := s.cfg.nwords } ∧
    ∀ k, s.cfg.nblk ≤ k → s2.sm.block k = s.sm.block k

/-- 42_seed_certify.md R149: the state after SEED is a function of DIN, MEXP and the ParameterSet. -/
def Obligations.SeedIsAFunctionOfTheSeed : Prop :=
  ∀ s s' : State, s.cfg.mexp = s'.cfg.mexp → s.cfg.params = s'.cfg.params → s.din = s'.din →
    ∃ t t', exec .seed s = .next t ∧ exec .seed s' = .next t' ∧ t.cursor = t'.cursor ∧
      t.seeded = true ∧ t'.seeded = true ∧ ∀ k, k < s.cfg.nblk → t.sm.block k = t'.sm.block k ∧
        ∃ v, t.sm.block k = some v

/-- 43_extraction.md R166: the first read after SEED regenerates. -/
def Obligations.FirstReadAfterSeedRegenerates : Prop :=
  ∀ s t : State, s.cfg.wf → exec .seed s = .next t →
    (∃ u, exec .next32 t = .next u ∧ u.cursor = 1 ∧ u.regenCount = t.regenCount + 1 ∧
      u.sm.w32 0 = some u.dout0) ∧
    (∃ u, exec .next64 t = .next u ∧ u.cursor = 2 ∧ u.regenCount = t.regenCount + 1 ∧
      u.sm.w32 0 = some u.dout0 ∧ u.sm.w32 1 = some u.dout1)

/-! ## Extraction -/

/-- 43_extraction.md R160. -/
def Obligations.Next32PopsOneWord : Prop :=
  ∀ s : State,
    (s.seeded = false →
      exec .next32 s = .next { s with err := 0x2#4, sticky := true, pend := none }) ∧
    (∀ r, s.seeded = true → s.cursor < s.cfg.nwords → s.sm.w32 s.cursor = some r →
      exec .next32 s = .next { s with
        cursor := s.cursor + 1, dout0 := r, dout1 := 0, err := 0x0#4, pend := none }) ∧
    (∀ u r, s.seeded = true → s.cursor ≥ s.cfg.nwords → exec .regen s = .next u → u.sm.w32 0 = some r →
      exec .next32 s = .next { u with
        cursor := 1, dout0 := r, dout1 := 0, err := 0x0#4, pend := none })

/-- 43_extraction.md R161. -/
def Obligations.Next64PopsTwoWords : Prop :=
  ∀ s : State,
    (s.seeded = false →
      exec .next64 s = .next { s with err := 0x2#4, sticky := true, pend := none }) ∧
    (∀ lo hi, s.seeded = true → s.cursor < s.cfg.nwords - 1 → s.sm.w32 s.cursor = some lo →
      s.sm.w32 (s.cursor + 1) = some hi →
      exec .next64 s = .next { s with
        cursor := s.cursor + 2, dout0 := lo, dout1 := hi, err := 0x0#4, pend := none }) ∧
    (∀ u lo hi, s.seeded = true → s.cursor ≥ s.cfg.nwords - 1 → exec .regen s = .next u →
      u.sm.w32 0 = some lo → u.sm.w32 1 = some hi →
      exec .next64 s = .next { u with
        cursor := 2, dout0 := lo, dout1 := hi, err := 0x0#4, pend := none })

/-- 43_extraction.md R160, R161, R162: on a seeded engine whose blocks are all set, both reads complete
without an error, with one more or two more words served, and the cursor stays in range. -/
def Obligations.ReadsCompleteOnASeededEngine : Prop :=
  ∀ s : State, s.cfg.wf → s.seeded = true → (∀ k, k < s.cfg.nblk → ∃ v, s.sm.block k = some v) →
    (∃ t, exec .next32 s = .next t ∧ t.err = 0x0#4 ∧ t.pend = none ∧ 1 ≤ t.cursor ∧
      t.cursor ≤ s.cfg.nwords ∧ t.sticky = s.sticky ∧ t.din = s.din ∧ t.dout1 = 0) ∧
    (∃ t, exec .next64 s = .next t ∧ t.err = 0x0#4 ∧ t.pend = none ∧ 2 ≤ t.cursor ∧
      t.cursor ≤ s.cfg.nwords ∧ t.sticky = s.sticky ∧ t.din = s.din)

/-- 43_extraction.md R163: both halves of a NEXT64 result are words of the one generation SM then holds. -/
def Obligations.Next64HalvesComeFromOneGeneration : Prop :=
  ∀ s t : State, s.cfg.wf → s.seeded = true → exec .next64 s = .next t → ∃ p, t.cursor = p + 2 ∧
    t.sm.w32 p = some t.dout0 ∧ t.sm.w32 (p + 1) = some t.dout1

/-- 43_extraction.md R167: the exhaustion boundary, over any run of NEXT32 from a seeded, exhausted engine. -/
def Obligations.ExhaustionTriggersExactlyOneRegeneration : Prop :=
  ∀ s : State, s.Inv → s.seeded = true → s.cursor = s.cfg.nwords →
    (∀ n, 1 ≤ n → n ≤ s.cfg.nwords → ∃ t, runInstrs (List.replicate n .next32) s = .next t ∧
      t.cursor = n ∧ t.regenCount = s.regenCount + 1 ∧ t.sm.w32 (n - 1) = some t.dout0) ∧
    (∃ t, runInstrs (List.replicate (s.cfg.nwords + 1) .next32) s = .next t ∧
      t.cursor = 1 ∧ t.regenCount = s.regenCount + 2)

/-- 20_memory.md R63, 00_scope.md R15: the word and pair views are the bytes of SM, least significant first. -/
def Obligations.WordViewsAreBytesOfTheState : Prop :=
  ∀ (m : Memory) (p : Nat),
    (∀ r, m.w32 p = some r → m.memRead p 4 = some r.toNat) ∧
    (∀ lo hi, m.w32 p = some lo → m.w32 (p + 1) = some hi →
      ∃ r, m.w64 p = some r ∧ m.memRead p 8 = some r.toNat ∧ r.toNat = hi.toNat * 2 ^ 32 + lo.toNat)

/-! ## Errors, completion and the engine's turn -/

/-- 30_encoding.md R90: a step runs the decoded command. (The schedule is the model's, log entry 7.) -/
def Obligations.StepRunsTheDecodedCommand : Prop :=
  ∀ (s : State) (w : Word32) (i : Instr), s.pend = some w → s.halted = false → s.cursor ≤ s.cfg.nwords →
    decode w = .command i →
    (s.sched = [] → step s = exec i s) ∧
    (∀ rest, s.sched = .engine :: rest → step s = exec i { s with sched := rest })

/-- A command word placed by `withFetchWord` runs in the very next step (log entry 15, the model's loader). -/
def Obligations.PlacedCommandRunsNext : Prop :=
  ∀ (s : State) (w : Nat) (i : Instr), decodeTableWord 32 w = some i →
    step (s.withFetchWord 32 w) =
      exec i { s.withFetchWord 32 w with sched := s.sched }

/-- 60_exceptions.md R202. (A turn that comes next with none scheduled is log entry 7.) -/
def Obligations.IllegalWordOnlyReports : Prop :=
  ∀ (s u : State) (w : Word32), s.pend = some w → s.halted = false →
    s.cursor ≤ s.cfg.nwords → w ≠ 0x00000001#32 → w ≠ 0x00000002#32 → w ≠ 0x00000003#32 →
    TurnNext .engine s u →
    step s = .next { u with err := 0x1#4, sticky := true, pend := none } ∧
    busy { u with err := 0x1#4, sticky := true, pend := none } = false

/-- 60_exceptions.md R203. (A turn that comes next with none scheduled is log entry 7.) -/
def Obligations.ReadBeforeSeedOnlyReports : Prop :=
  ∀ (s u : State) (w : Word32), s.pend = some w → s.halted = false →
    s.cursor ≤ s.cfg.nwords → s.seeded = false → TurnNext .engine s u →
    (w = 0x00000002#32 ∨ w = 0x00000003#32 →
      step s = .next { u with err := 0x2#4, sticky := true, pend := none }) ∧
    (w = 0x00000001#32 → ∃ t, step s = .next t ∧ t.seeded = true ∧ t.err = 0x0#4)

/-- 60_exceptions.md R204, first part: the entry. DEFECT is found before the word is looked at (R207). (A turn
that comes next with none scheduled is log entry 7.) -/
def Obligations.DefectHaltsTheEngine : Prop :=
  ∀ (s u : State) (w : Word32), s.pend = some w → s.halted = false →
    s.cursor > s.cfg.nwords → TurnNext .engine s u →
    step s = .next { u with halted := true, err := 0xF#4, sticky := true, pend := none }

/-- 60_exceptions.md R204, 10_state.md R35: a halted engine stays as it is until reset; BUSY reads 1 and a
CMD or DIN write sets OVERRUN and is dropped. -/
def Obligations.HaltedEngineIsStuckUntilReset : Prop :=
  ∀ s : State, s.halted = true →
    (statusWord s).getLsbD 0 = true ∧
    (∀ v, writeReg s v .cmd = { s with overrun := true } ∧ writeReg s v .din = { s with overrun := true }) ∧
    (∀ t, step s = .next t → s.sched.head? ≠ some .reset →
      SameResults s t ∧ t.pend = s.pend ∧ t.din = s.din) ∧
    (∀ rest, s.sched = .reset :: rest → ∃ t, step s = .next t ∧ t.halted = false)

/-- 60_exceptions.md R206, R201: how a command completes, and that errors are precise. -/
def Obligations.ErrorsArePrecise : Prop :=
  ∀ (s t : State) (w : Word32), s.pend = some w → s.halted = false → s.cursor ≤ s.cfg.nwords →
    engineTurn s = .next t →
    t.pend = none ∧ t.sticky = (s.sticky || t.err != 0x0#4) ∧
    (t.err = 0x0#4 ∨ t.err = 0x1#4 ∨ t.err = 0x2#4) ∧
    (t.err ≠ 0x0#4 → t = { s with err := t.err, sticky := true, pend := none })

/-- 60_exceptions.md R207: DEFECT before the word is decoded, then ILLEGAL, then UNSEEDED; SEED raises nothing,
and neither does a read on a seeded engine. -/
def Obligations.ErrorPriority : Prop :=
  ∀ (s : State) (w : Word32), s.pend = some w → s.halted = false →
    (s.cursor > s.cfg.nwords → ∃ t, engineTurn s = .next t ∧ t.err = 0xF#4) ∧
    (s.cursor ≤ s.cfg.nwords → (∃ y, decode w = .illegal y) → ∃ t, engineTurn s = .next t ∧ t.err = 0x1#4) ∧
    (s.cursor ≤ s.cfg.nwords → (decode w = .command .next32 ∨ decode w = .command .next64) →
      s.seeded = false → ∃ t, engineTurn s = .next t ∧ t.err = 0x2#4) ∧
    (s.cursor ≤ s.cfg.nwords → decode w = .command .seed → ∃ t, engineTurn s = .next t ∧ t.err = 0x0#4) ∧
    (s.Inv → s.seeded = true → (decode w = .command .next32 ∨ decode w = .command .next64) →
      ∃ t, engineTurn s = .next t ∧ t.err = 0x0#4)

/-- 30_encoding.md R90, 10_state.md R35: with PEND empty or the engine halted its turn changes nothing (that
the turn passes is log entry 8). -/
def Obligations.EngineWithoutAStepChangesNothing : Prop :=
  ∀ s : State, s.pend = none ∨ s.halted = true → engineTurn s = .next s

/-! ## The interface registers -/

/-- 10_state.md R38. (A turn that comes next with none scheduled is log entry 7.) -/
def Obligations.CmdWriteIssuesOrIsDropped : Prop :=
  ∀ (s u : State) (w : Word32) (rest : List HostStmt),
    TurnNext .host s u → s.host.prog = .wr ⟨s.cfg.base, .w32⟩ w :: rest →
    (busy s = true → step s = .next { u with overrun := true, host := { s.host with prog := rest } }) ∧
    (busy s = false → ∃ t, step s = .next t ∧ busy t = true ∧
      t = { u with pend := some w, host := { s.host with prog := rest } }) ∧
    busRead s ⟨s.cfg.base, .w32⟩ = some (0, s)

/-- 10_state.md R39: DIN is written when idle, kept while a command is in flight, and read back. (A turn that
comes next with none scheduled is log entry 7; the 64-bit host variable that a read fills is log entry 22.) -/
def Obligations.DinWriteStoresOrIsDropped : Prop :=
  ∀ (s u : State) (w : Word32) (rest : List HostStmt),
    TurnNext .host s u → s.host.prog = .wr ⟨s.cfg.base + 0x04, .w32⟩ w :: rest →
    (busy s = true → step s = .next { u with overrun := true, host := { s.host with prog := rest } }) ∧
    (busy s = false → step s = .next { u with din := w, host := { s.host with prog := rest } }) ∧
    busRead s ⟨s.cfg.base + 0x04, .w32⟩ = some (s.din.setWidth 64, s)

/-- 10_state.md R42: the fields of STATUS, and what a write of it clears, at any time. (The 64-bit host variable that a
read fills is log entry 22.) -/
def Obligations.StatusFieldsAndWriteOneToClear : Prop :=
  ∀ s : State,
    ((statusWord s).getLsbD 0 = (s.pend.isSome || s.halted) ∧ (statusWord s).getLsbD 1 = s.seeded ∧
      (statusWord s).getLsbD 2 = s.sticky ∧ (statusWord s).getLsbD 3 = s.overrun ∧
      (statusWord s).extractLsb' 4 4 = 0#4 ∧ (statusWord s).extractLsb' 8 4 = s.err ∧
      (statusWord s).extractLsb' 12 20 = 0#20) ∧
    (∀ w, busWrite s ⟨s.cfg.base + 0x10, .w32⟩ w = some { s with
      sticky := s.sticky && !w.getLsbD 2, overrun := s.overrun && !w.getLsbD 3 }) ∧
    busRead s ⟨s.cfg.base + 0x10, .w32⟩ = some ((statusWord s).setWidth 64, s)

/-- 10_state.md R40, R41, R43 to R46: what the read-only registers show, and that a write of one is ignored.
The clause on CURSOR is for a cursor in range (log entry 17). (The 64-bit host variable that a read fills is log
entry 22.) -/
def Obligations.ReadOnlyRegisters : Prop :=
  ∀ s : State,
    busRead s ⟨s.cfg.base + 0x08, .w32⟩ = some (s.dout0.setWidth 64, s) ∧
    busRead s ⟨s.cfg.base + 0x0C, .w32⟩ = some (s.dout1.setWidth 64, s) ∧
    (s.cursor ≤ s.cfg.nwords → ∃ v, busRead s ⟨s.cfg.base + 0x14, .w32⟩ = some (v, s) ∧
      v.toNat = s.cursor ∧ v.extractLsb' 16 16 = 0#16) ∧
    (∃ v, busRead s ⟨s.cfg.base + 0x18, .w32⟩ = some (v, s) ∧ v.toNat = s.cfg.mexp.toNat ∧
      v.extractLsb' 18 14 = 0#14) ∧
    (∃ v, busRead s ⟨s.cfg.base + 0x1C, .w32⟩ = some (v, s) ∧ v.toNat = s.cfg.nblk ∧
      v.extractLsb' 11 21 = 0#21) ∧
    busRead s ⟨s.cfg.base + 0x20, .w32⟩ = some (s.regenCount.setWidth 64, s) ∧
    ∀ off ∈ [0x08, 0x0C, 0x14, 0x18, 0x1C, 0x20], ∀ w, busWrite s ⟨s.cfg.base + off, .w32⟩ w = some s

/-- 10_state.md R47: the reserved offsets read 0 and ignore writes, and an access that touches no byte of the
window does not reach the engine: a write there changes nothing, a read changes at most the model's own
counter of free values and returns a value of the width of the access (log entry 13, DESIGN CHOICE). -/
def Obligations.ReservedAndOutsideAccessesDoNothing : Prop :=
  ∀ s : State,
    (∀ off, 0x24 ≤ off → off < 0x40 → off % 4 = 0 →
      busRead s ⟨s.cfg.base + off, .w32⟩ = some (0, s) ∧
      ∀ w, busWrite s ⟨s.cfg.base + off, .w32⟩ w = some s) ∧
    (∀ a : Access, a.addr + a.width.bytes ≤ s.cfg.base ∨ s.cfg.base + 0x40 ≤ a.addr →
      (∀ w, busWrite s a w = some s) ∧
        ∃ v n, busRead s a = some (v, { s with freeIx := n }) ∧ v.toNat < 2 ^ (8 * a.width.bytes))

/-- 20_memory.md R68: of the accesses that touch the window, the model refuses exactly those that are not
aligned 32-bit ones, and such an access has no step. That one which straddles an end of the window is among them
is the model's choice (log entry 14, DESIGN CHOICE), and so is the turn that comes next with none scheduled (log
entry 7). -/
def Obligations.OnlyAlignedWordAccessesAreModelled : Prop :=
  ∀ (s : State) (a : Access),
    ((∃ k, k < 16 ∧ a = ⟨s.cfg.base + 4 * k, .w32⟩) →
      (∃ v, busRead s a = some (v, s)) ∧ (∀ w, ∃ t, busWrite s a w = some t) ∧
      ∀ u p rest, TurnNext .host s u → s.host.prog = p :: rest → accessOf p = some a → ∃ t, step s = .next t) ∧
    (MalformedAccess s.cfg.base a →
      busRead s a = none ∧ (∀ w, busWrite s a w = none) ∧
      ∀ u p rest, TurnNext .host s u → s.host.prog = p :: rest → accessOf p = some a →
        step s = .refused .notAligned32)

/-- 60_exceptions.md R205, 70_reset_and_hazards.md R233, R234, R236: no turn of the host changes SM, the cursor,
`seeded`, `halted`, the results, ERR or REGEN_COUNT; and while a command is in flight it changes neither PEND
nor DIN. -/
def Obligations.HostCannotDisturbACommandInFlight : Prop :=
  ∀ s t : State, hostTurn s = .next t →
    SameResults s t ∧ (busy s = true → t.pend = s.pend ∧ t.din = s.din ∧
      (statusWord t).getLsbD 0 = true)

/-! ## Whole-machine rules -/

/-- 70_reset_and_hazards.md R230. -/
def Obligations.ResetIsOneEvent : Prop :=
  ∀ (s : State) (rest : List Turn), s.sched = .reset :: rest →
    ∃ t, step s = .next t ∧ (∀ k, t.sm.block k = none) ∧ t.cursor = s.cfg.nwords ∧ t.seeded = false ∧
      t.halted = false ∧ t.pend = none ∧ t.din = 0 ∧ t.dout0 = 0 ∧ t.dout1 = 0 ∧ t.sticky = false ∧
      t.overrun = false ∧ t.err = 0x0#4 ∧ t.regenCount = 0 ∧ statusWord t = 0x00000000#32 ∧ t.cfg = s.cfg

/-- 10_state.md R53, R55: the state after reset, of any legal configuration, meets the invariant, and its
registers read as the rule's table says. -/
def Obligations.ResetStateMeetsTheInvariant : Prop :=
  (∀ c : Config, c.wf → (State.resetOf c).Inv ∧ statusWord (State.resetOf c) = 0x00000000#32 ∧
    (State.resetOf c).cursor = c.nwords ∧ (∀ k, (State.resetOf c).sm.block k = none) ∧
    (State.resetOf c).din = 0 ∧ (State.resetOf c).dout0 = 0 ∧ (State.resetOf c).dout1 = 0 ∧
    (State.resetOf c).regenCount = 0 ∧ (State.resetOf c).pend = none) ∧
  State.reset.Inv

/-- 10_state.md R55: every step keeps the invariant: the cursor in range, SM full once seeded and empty
before, the engine not halted, the memory canonical and within its N blocks, ERR a code that is written. -/
def Obligations.EveryStepKeepsTheInvariant : Prop :=
  ∀ s t : State, s.Inv → step s = .next t → t.Inv

/-- 10_state.md R32, R55, 20_memory.md R68: in a state that meets the invariant no step faults, and a step is
refused exactly where the host makes a malformed access; a turn of the engine or of reset always completes. (That
a turn of an agent without a step passes is log entry 8, that a straddling access is malformed log entry 14, the
turn that comes next with none scheduled log entry 7: the model's choices.) -/
def Obligations.InvariantStatesNeverFault : Prop :=
  ∀ s : State, s.Inv →
    (¬ MalformedNext s → ∃ t, step s = .next t) ∧
    (MalformedNext s → step s = .refused .notAligned32) ∧
    (∀ t u, TurnNext t s u → t ≠ .host → ∃ v, step s = .next v)

/-- 10_state.md R34: `seeded` is 0 after reset, set by SEED, cleared by nothing but reset, read by the two NEXT
commands, and shown in STATUS bit 1. -/
def Obligations.SeededIsClearedOnlyByReset : Prop :=
  (∀ c, (State.resetOf c).seeded = false) ∧
  (∀ s, ∃ t, exec .seed s = .next t ∧ t.seeded = true) ∧
  (∀ s t, step s = .next t → s.seeded = true → s.sched.head? ≠ some .reset → t.seeded = true) ∧
  (∀ s, s.seeded = false → ∃ t t', exec .next32 s = .next t ∧ exec .next64 s = .next t' ∧
    t.err = 0x2#4 ∧ t'.err = 0x2#4) ∧
  ∀ s : State, (statusWord s).getLsbD 1 = s.seeded

/-- 10_state.md R54: no step changes the configuration. -/
def Obligations.ConfigurationNeverChanges : Prop :=
  ∀ s t : State, step s = .next t → t.cfg = s.cfg

/-- 70_reset_and_hazards.md R237: a `wait` ends, whatever turns are scheduled first and whatever the program does
next: the host stands at it until PEND is empty, and the program then goes on. The clause on an empty rest says
that the end stays. (That the engine moves first once the schedule is used up is log entry 7, that a turn without
a step passes log entry 8: the model's choices. The count is the model's, not a latency.) -/
def Obligations.EveryWaitEnds : Prop :=
  ∀ (s : State) (rest : List HostStmt), s.Inv → s.host.prog = Asm.wait s.cfg.base ++ rest →
    (∃ n t, n ≤ s.sched.length + 2 ∧ core.run n s = .next t ∧ t.host.prog = rest ∧ t.pend = none ∧ t.Inv ∧
      ∀ m, m < n → ∃ u, core.run m s = .next u ∧ u.host.prog = s.host.prog) ∧
    (rest = [] →
      ∃ t, core.run (s.sched.length + 2) s = .next t ∧ t.host.prog = [] ∧ t.pend = none ∧ t.Inv)

/-- 43_extraction.md R169: a copy of the state tuple gives the same outputs for the same commands. (That the copy
takes the source's working registers is log entry 23; no output depends on them.) -/
def Obligations.CloneGivesTheSameOutputs : Prop :=
  ∀ (s d c : State) (cmds : List Instr), cloneInto s d = some c → (∀ i ∈ cmds, isHostCommand i = true) →
    outputs cmds c = outputs cmds s

/-- 43_extraction.md R169: "Only SM, cursor and seeded matter for the outputs" of a sequence of reads. -/
def Obligations.OutputsDependOnlyOnTheGenerator : Prop :=
  ∀ (s s' : State) (cmds : List Instr), s.cfg.mexp = s'.cfg.mexp → s.cfg.params = s'.cfg.params →
    s.sm = s'.sm → s.cursor = s'.cursor → s.seeded = true → s'.seeded = true →
    (∀ i ∈ cmds, i = .next32 ∨ i = .next64) → outputs cmds s = outputs cmds s'

/-! ## Host assembly -/

/-- 30_encoding.md R87, 70_reset_and_hazards.md R236: `seed32` on an idle engine seeds it with its immediate, and
the program goes on. (Four steps: the default order of log entry 7, DESIGN CHOICE.) -/
def Obligations.SeedThirtyTwoSeedsTheEngine : Prop :=
  ∀ (s : State) (v : Word32) (rest : List HostStmt), s.Inv → s.pend = none → s.sched = [] →
    s.host.prog = Asm.seed32 s.cfg.base v ++ rest →
    ∃ t u, core.run 4 s = .next t ∧ t.host.prog = rest ∧ t.din = v ∧ busy t = false ∧
      t.cursor = s.cfg.nwords ∧ exec .seed { s with din := v } = .next u ∧ t.sm = u.sm ∧ t.seeded = true ∧
      t.err = 0x0#4

/-- 30_encoding.md R87, 43_extraction.md R161, 70_reset_and_hazards.md R235: `get64` on an idle seeded engine
leaves in its variable the pair of words at the cursor, the lower-index word low, or, where fewer than two words
remain, words 0 and 1 of the state that REGEN leaves; and the program goes on. (Six steps from an empty schedule:
the default order of log entry 7, DESIGN CHOICE. The 64-bit variable is log entry 22.) -/
def Obligations.GetSixtyFourReturnsOnePair : Prop :=
  ∀ (s : State) (n : Nat) (rest : List HostStmt), s.Inv → s.seeded = true → s.pend = none → s.sched = [] →
    s.host.prog = Asm.get64 s.cfg.base (.var n) ++ rest →
    (∀ lo hi, s.cursor < s.cfg.nwords - 1 → s.sm.w32 s.cursor = some lo → s.sm.w32 (s.cursor + 1) = some hi →
      ∃ t, core.run 6 s = .next t ∧ t.host.prog = rest ∧
        (t.host.get (.var n)).toNat = hi.toNat * 2 ^ 32 + lo.toNat ∧ t.cursor = s.cursor + 2 ∧ t.sm = s.sm ∧
        t.regenCount = s.regenCount) ∧
    (s.cursor ≥ s.cfg.nwords - 1 →
      ∃ t u lo hi, exec .regen s = .next u ∧ u.sm.w32 0 = some lo ∧ u.sm.w32 1 = some hi ∧
        core.run 6 s = .next t ∧ t.host.prog = rest ∧
        (t.host.get (.var n)).toNat = hi.toNat * 2 ^ 32 + lo.toNat ∧ t.cursor = 2 ∧ t.sm = u.sm ∧
        t.regenCount = s.regenCount + 1)

/-- 43_extraction.md R165, R164, 00_scope.md R12: the commands a `fill` issues under U64_THEN_TAIL, the default,
and under U32_ONLY. -/
def Obligations.FillIssuesTheStatedCommands : Prop :=
  ∀ (base len buf : Nat),
    Asm.fill base len buf = Asm.fill base len buf .u64ThenTail ∧
    (Asm.fill base len buf .u64ThenTail).filterMap (commandWord base) =
      List.replicate (len / 8) 0x00000003#32 ++
        (if len % 8 ≥ 5 then [0x00000003#32] else if 1 ≤ len % 8 then [0x00000002#32] else []) ∧
    (Asm.fill base len buf .u32Only).filterMap (commandWord base) =
      List.replicate ((len + 3) / 4) 0x00000002#32

/-- 43_extraction.md R164, 20_memory.md R64: the stores of a `fill`, under both decompositions, go to the addresses
buf .. buf+L-1, each once and in order; and the step of each store puts the bytes of the result there, the least
significant first, and changes no other byte and nothing else. (That a store takes a turn of its own is log entry
11, the turn that comes next with none scheduled log entry 7: the model's choices.) -/
def Obligations.FillStoresLittleEndianBytes : Prop :=
  (∀ base len buf decomp,
    (Asm.fill base len buf decomp).flatMap storedAt = (List.range len).map (buf + ·)) ∧
  (∀ (s u : State) (addr count : Nat) (rest : List HostStmt),
    TurnNext .host s u → s.host.prog = .put addr count :: rest →
    ∃ m, step s = .next { u with host := { s.host with prog := rest, buf := m } } ∧
      (∀ i, i < count → Cells.read m (addr + i) = some (s.host.r.extractLsb' (8 * i) 8)) ∧
      (∀ k, k < addr ∨ addr + count ≤ k → Cells.read m k = Cells.read s.host.buf k) ∧
      ∀ k, k ∉ storedAt (.put addr count) ↔ k < addr ∨ addr + count ≤ k)

/-- 20_memory.md R65. -/
def Obligations.SeedBytesAreLittleEndian : Prop :=
  ∀ (base : Nat) (b0 b1 b2 b3 b4 b5 b6 b7 : Byte),
    (Asm.seedOfBytes b0 b1 b2 b3).toNat =
      b0.toNat + b1.toNat * 2 ^ 8 + b2.toNat * 2 ^ 16 + b3.toNat * 2 ^ 24 ∧
    Asm.seedbytes8 base b0 b1 b2 b3 b4 b5 b6 b7 = Asm.seed32 base (Asm.seedOfBytes b0 b1 b2 b3) ∧
    Asm.seedbytes4 base b0 b1 b2 b3 = Asm.seed32 base (Asm.seedOfBytes b0 b1 b2 b3)
end

