-- ==== Sys2Proof/Laws/State.lean ====
section
/-! SUPPORT. One lemma per field of State and per named update, so that no proof unfolds a record update. -/

namespace Sys2Proof.Machine

@[simp] theorem setVReg_cfg (s : State) (r : VReg) (e : Block) : (setVReg s r e).cfg = s.cfg := rfl
@[simp] theorem setVReg_sm (s : State) (r : VReg) (e : Block) : (setVReg s r e).sm = s.sm := rfl
@[simp] theorem setVReg_cursor (s : State) (r : VReg) (e : Block) : (setVReg s r e).cursor = s.cursor := rfl
@[simp] theorem setVReg_seeded (s : State) (r : VReg) (e : Block) : (setVReg s r e).seeded = s.seeded := rfl
@[simp] theorem setVReg_halted (s : State) (r : VReg) (e : Block) : (setVReg s r e).halted = s.halted := rfl
@[simp] theorem setVReg_pend (s : State) (r : VReg) (e : Block) : (setVReg s r e).pend = s.pend := rfl
@[simp] theorem setVReg_din (s : State) (r : VReg) (e : Block) : (setVReg s r e).din = s.din := rfl
@[simp] theorem setVReg_dout0 (s : State) (r : VReg) (e : Block) : (setVReg s r e).dout0 = s.dout0 := rfl
@[simp] theorem setVReg_dout1 (s : State) (r : VReg) (e : Block) : (setVReg s r e).dout1 = s.dout1 := rfl
@[simp] theorem setVReg_sticky (s : State) (r : VReg) (e : Block) : (setVReg s r e).sticky = s.sticky := rfl
@[simp] theorem setVReg_overrun (s : State) (r : VReg) (e : Block) : (setVReg s r e).overrun = s.overrun := rfl
@[simp] theorem setVReg_err (s : State) (r : VReg) (e : Block) : (setVReg s r e).err = s.err := rfl
@[simp] theorem setVReg_regenCount (s : State) (r : VReg) (e : Block) : (setVReg s r e).regenCount = s.regenCount := rfl
@[simp] theorem setVReg_dp (s : State) (r : VReg) (e : Block) : (setVReg s r e).dp = s.dp.set r e := rfl
@[simp] theorem setVReg_host (s : State) (r : VReg) (e : Block) : (setVReg s r e).host = s.host := rfl
@[simp] theorem setVReg_sched (s : State) (r : VReg) (e : Block) : (setVReg s r e).sched = s.sched := rfl
@[simp] theorem setVReg_freeIx (s : State) (r : VReg) (e : Block) : (setVReg s r e).freeIx = s.freeIx := rfl

@[simp] theorem complete_cfg (c : ErrCode) (s : State) : (complete c s).cfg = s.cfg := rfl
@[simp] theorem complete_sm (c : ErrCode) (s : State) : (complete c s).sm = s.sm := rfl
@[simp] theorem complete_cursor (c : ErrCode) (s : State) : (complete c s).cursor = s.cursor := rfl
@[simp] theorem complete_seeded (c : ErrCode) (s : State) : (complete c s).seeded = s.seeded := rfl
@[simp] theorem complete_halted (c : ErrCode) (s : State) : (complete c s).halted = s.halted := rfl
@[simp] theorem complete_pend (c : ErrCode) (s : State) : (complete c s).pend = none := rfl
@[simp] theorem complete_din (c : ErrCode) (s : State) : (complete c s).din = s.din := rfl
@[simp] theorem complete_dout0 (c : ErrCode) (s : State) : (complete c s).dout0 = s.dout0 := rfl
@[simp] theorem complete_dout1 (c : ErrCode) (s : State) : (complete c s).dout1 = s.dout1 := rfl
@[simp] theorem complete_sticky (c : ErrCode) (s : State) : (complete c s).sticky = if c = .ok then s.sticky else true := rfl
@[simp] theorem complete_overrun (c : ErrCode) (s : State) : (complete c s).overrun = s.overrun := rfl
@[simp] theorem complete_err (c : ErrCode) (s : State) : (complete c s).err = c.bits := rfl
@[simp] theorem complete_regenCount (c : ErrCode) (s : State) : (complete c s).regenCount = s.regenCount := rfl
@[simp] theorem complete_dp (c : ErrCode) (s : State) : (complete c s).dp = s.dp := rfl
@[simp] theorem complete_host (c : ErrCode) (s : State) : (complete c s).host = s.host := rfl
@[simp] theorem complete_sched (c : ErrCode) (s : State) : (complete c s).sched = s.sched := rfl
@[simp] theorem complete_freeIx (c : ErrCode) (s : State) : (complete c s).freeIx = s.freeIx := rfl

@[simp] theorem defect_cfg (s : State) : (defect s).cfg = s.cfg := rfl
@[simp] theorem defect_sm (s : State) : (defect s).sm = s.sm := rfl
@[simp] theorem defect_cursor (s : State) : (defect s).cursor = s.cursor := rfl
@[simp] theorem defect_seeded (s : State) : (defect s).seeded = s.seeded := rfl
@[simp] theorem defect_halted (s : State) : (defect s).halted = true := rfl
@[simp] theorem defect_pend (s : State) : (defect s).pend = none := rfl
@[simp] theorem defect_din (s : State) : (defect s).din = s.din := rfl
@[simp] theorem defect_dout0 (s : State) : (defect s).dout0 = s.dout0 := rfl
@[simp] theorem defect_dout1 (s : State) : (defect s).dout1 = s.dout1 := rfl
@[simp] theorem defect_sticky (s : State) : (defect s).sticky = true := rfl
@[simp] theorem defect_overrun (s : State) : (defect s).overrun = s.overrun := rfl
@[simp] theorem defect_err (s : State) : (defect s).err = ErrCode.defect.bits := rfl
@[simp] theorem defect_regenCount (s : State) : (defect s).regenCount = s.regenCount := rfl
@[simp] theorem defect_dp (s : State) : (defect s).dp = s.dp := rfl
@[simp] theorem defect_host (s : State) : (defect s).host = s.host := rfl
@[simp] theorem defect_sched (s : State) : (defect s).sched = s.sched := rfl
@[simp] theorem defect_freeIx (s : State) : (defect s).freeIx = s.freeIx := rfl

@[simp] theorem writeStatus_cfg (s : State) (w : Word32) : (writeStatus s w).cfg = s.cfg := rfl
@[simp] theorem writeStatus_sm (s : State) (w : Word32) : (writeStatus s w).sm = s.sm := rfl
@[simp] theorem writeStatus_cursor (s : State) (w : Word32) : (writeStatus s w).cursor = s.cursor := rfl
@[simp] theorem writeStatus_seeded (s : State) (w : Word32) : (writeStatus s w).seeded = s.seeded := rfl
@[simp] theorem writeStatus_halted (s : State) (w : Word32) : (writeStatus s w).halted = s.halted := rfl
@[simp] theorem writeStatus_pend (s : State) (w : Word32) : (writeStatus s w).pend = s.pend := rfl
@[simp] theorem writeStatus_din (s : State) (w : Word32) : (writeStatus s w).din = s.din := rfl
@[simp] theorem writeStatus_dout0 (s : State) (w : Word32) : (writeStatus s w).dout0 = s.dout0 := rfl
@[simp] theorem writeStatus_dout1 (s : State) (w : Word32) : (writeStatus s w).dout1 = s.dout1 := rfl
@[simp] theorem writeStatus_sticky (s : State) (w : Word32) : (writeStatus s w).sticky = if w.getLsbD 2 then false else s.sticky := rfl
@[simp] theorem writeStatus_overrun (s : State) (w : Word32) : (writeStatus s w).overrun = if w.getLsbD 3 then false else s.overrun := rfl
@[simp] theorem writeStatus_err (s : State) (w : Word32) : (writeStatus s w).err = s.err := rfl
@[simp] theorem writeStatus_regenCount (s : State) (w : Word32) : (writeStatus s w).regenCount = s.regenCount := rfl
@[simp] theorem writeStatus_dp (s : State) (w : Word32) : (writeStatus s w).dp = s.dp := rfl
@[simp] theorem writeStatus_host (s : State) (w : Word32) : (writeStatus s w).host = s.host := rfl
@[simp] theorem writeStatus_sched (s : State) (w : Word32) : (writeStatus s w).sched = s.sched := rfl
@[simp] theorem writeStatus_freeIx (s : State) (w : Word32) : (writeStatus s w).freeIx = s.freeIx := rfl

@[simp] theorem setOverrun_cfg (s : State) : (setOverrun s).cfg = s.cfg := rfl
@[simp] theorem setOverrun_sm (s : State) : (setOverrun s).sm = s.sm := rfl
@[simp] theorem setOverrun_cursor (s : State) : (setOverrun s).cursor = s.cursor := rfl
@[simp] theorem setOverrun_seeded (s : State) : (setOverrun s).seeded = s.seeded := rfl
@[simp] theorem setOverrun_halted (s : State) : (setOverrun s).halted = s.halted := rfl
@[simp] theorem setOverrun_pend (s : State) : (setOverrun s).pend = s.pend := rfl
@[simp] theorem setOverrun_din (s : State) : (setOverrun s).din = s.din := rfl
@[simp] theorem setOverrun_dout0 (s : State) : (setOverrun s).dout0 = s.dout0 := rfl
@[simp] theorem setOverrun_dout1 (s : State) : (setOverrun s).dout1 = s.dout1 := rfl
@[simp] theorem setOverrun_sticky (s : State) : (setOverrun s).sticky = s.sticky := rfl
@[simp] theorem setOverrun_overrun (s : State) : (setOverrun s).overrun = true := rfl
@[simp] theorem setOverrun_err (s : State) : (setOverrun s).err = s.err := rfl
@[simp] theorem setOverrun_regenCount (s : State) : (setOverrun s).regenCount = s.regenCount := rfl
@[simp] theorem setOverrun_dp (s : State) : (setOverrun s).dp = s.dp := rfl
@[simp] theorem setOverrun_host (s : State) : (setOverrun s).host = s.host := rfl
@[simp] theorem setOverrun_sched (s : State) : (setOverrun s).sched = s.sched := rfl
@[simp] theorem setOverrun_freeIx (s : State) : (setOverrun s).freeIx = s.freeIx := rfl

@[simp] theorem setHost_cfg (s : State) (h : HostState) : (setHost s h).cfg = s.cfg := rfl
@[simp] theorem setHost_sm (s : State) (h : HostState) : (setHost s h).sm = s.sm := rfl
@[simp] theorem setHost_cursor (s : State) (h : HostState) : (setHost s h).cursor = s.cursor := rfl
@[simp] theorem setHost_seeded (s : State) (h : HostState) : (setHost s h).seeded = s.seeded := rfl
@[simp] theorem setHost_halted (s : State) (h : HostState) : (setHost s h).halted = s.halted := rfl
@[simp] theorem setHost_pend (s : State) (h : HostState) : (setHost s h).pend = s.pend := rfl
@[simp] theorem setHost_din (s : State) (h : HostState) : (setHost s h).din = s.din := rfl
@[simp] theorem setHost_dout0 (s : State) (h : HostState) : (setHost s h).dout0 = s.dout0 := rfl
@[simp] theorem setHost_dout1 (s : State) (h : HostState) : (setHost s h).dout1 = s.dout1 := rfl
@[simp] theorem setHost_sticky (s : State) (h : HostState) : (setHost s h).sticky = s.sticky := rfl
@[simp] theorem setHost_overrun (s : State) (h : HostState) : (setHost s h).overrun = s.overrun := rfl
@[simp] theorem setHost_err (s : State) (h : HostState) : (setHost s h).err = s.err := rfl
@[simp] theorem setHost_regenCount (s : State) (h : HostState) : (setHost s h).regenCount = s.regenCount := rfl
@[simp] theorem setHost_dp (s : State) (h : HostState) : (setHost s h).dp = s.dp := rfl
@[simp] theorem setHost_host (s : State) (h : HostState) : (setHost s h).host = h := rfl
@[simp] theorem setHost_sched (s : State) (h : HostState) : (setHost s h).sched = s.sched := rfl
@[simp] theorem setHost_freeIx (s : State) (h : HostState) : (setHost s h).freeIx = s.freeIx := rfl

@[simp] theorem resetEngine_cfg (s : State) : (resetEngine s).cfg = s.cfg := rfl
@[simp] theorem resetEngine_sm (s : State) : (resetEngine s).sm = [] := rfl
@[simp] theorem resetEngine_cursor (s : State) : (resetEngine s).cursor = s.cfg.nwords := rfl
@[simp] theorem resetEngine_seeded (s : State) : (resetEngine s).seeded = false := rfl
@[simp] theorem resetEngine_halted (s : State) : (resetEngine s).halted = false := rfl
@[simp] theorem resetEngine_pend (s : State) : (resetEngine s).pend = none := rfl
@[simp] theorem resetEngine_din (s : State) : (resetEngine s).din = 0 := rfl
@[simp] theorem resetEngine_dout0 (s : State) : (resetEngine s).dout0 = 0 := rfl
@[simp] theorem resetEngine_dout1 (s : State) : (resetEngine s).dout1 = 0 := rfl
@[simp] theorem resetEngine_sticky (s : State) : (resetEngine s).sticky = false := rfl
@[simp] theorem resetEngine_overrun (s : State) : (resetEngine s).overrun = false := rfl
@[simp] theorem resetEngine_err (s : State) : (resetEngine s).err = 0 := rfl
@[simp] theorem resetEngine_regenCount (s : State) : (resetEngine s).regenCount = 0 := rfl
@[simp] theorem resetEngine_dp (s : State) : (resetEngine s).dp = Datapath.zero := rfl
@[simp] theorem resetEngine_host (s : State) : (resetEngine s).host = s.host := rfl
@[simp] theorem resetEngine_sched (s : State) : (resetEngine s).sched = s.sched := rfl
@[simp] theorem resetEngine_freeIx (s : State) : (resetEngine s).freeIx = s.freeIx := rfl

@[simp] theorem placeWord_cfg (s : State) (w : Word32) : (placeWord s w).cfg = s.cfg := rfl
@[simp] theorem placeWord_sm (s : State) (w : Word32) : (placeWord s w).sm = s.sm := rfl
@[simp] theorem placeWord_cursor (s : State) (w : Word32) : (placeWord s w).cursor = min s.cursor s.cfg.nwords := rfl
@[simp] theorem placeWord_seeded (s : State) (w : Word32) : (placeWord s w).seeded = s.seeded := rfl
@[simp] theorem placeWord_halted (s : State) (w : Word32) : (placeWord s w).halted = false := rfl
@[simp] theorem placeWord_pend (s : State) (w : Word32) : (placeWord s w).pend = some w := rfl
@[simp] theorem placeWord_din (s : State) (w : Word32) : (placeWord s w).din = s.din := rfl
@[simp] theorem placeWord_dout0 (s : State) (w : Word32) : (placeWord s w).dout0 = s.dout0 := rfl
@[simp] theorem placeWord_dout1 (s : State) (w : Word32) : (placeWord s w).dout1 = s.dout1 := rfl
@[simp] theorem placeWord_sticky (s : State) (w : Word32) : (placeWord s w).sticky = s.sticky := rfl
@[simp] theorem placeWord_overrun (s : State) (w : Word32) : (placeWord s w).overrun = s.overrun := rfl
@[simp] theorem placeWord_err (s : State) (w : Word32) : (placeWord s w).err = s.err := rfl
@[simp] theorem placeWord_regenCount (s : State) (w : Word32) : (placeWord s w).regenCount = s.regenCount := rfl
@[simp] theorem placeWord_dp (s : State) (w : Word32) : (placeWord s w).dp = s.dp := rfl
@[simp] theorem placeWord_host (s : State) (w : Word32) : (placeWord s w).host = s.host := rfl
@[simp] theorem placeWord_sched (s : State) (w : Word32) : (placeWord s w).sched = .engine :: s.sched := rfl
@[simp] theorem placeWord_freeIx (s : State) (w : Word32) : (placeWord s w).freeIx = s.freeIx := rfl

@[simp] theorem resetOf_sm (c : Config) : (State.resetOf c).sm = [] := rfl
@[simp] theorem resetOf_cursor (c : Config) : (State.resetOf c).cursor = c.nwords := rfl
@[simp] theorem resetOf_seeded (c : Config) : (State.resetOf c).seeded = false := rfl
@[simp] theorem resetOf_halted (c : Config) : (State.resetOf c).halted = false := rfl
@[simp] theorem resetOf_cfg (c : Config) : (State.resetOf c).cfg = c := rfl

/-- Reading the working register just written. -/
@[simp] theorem Datapath.get_set_same (d : Datapath) (r : VReg) (e : Block) : (d.set r e).get r = e := by
  cases r <;> rfl

/-- Reading another working register. -/
theorem Datapath.get_set_other (d : Datapath) {r q : VReg} (e : Block) (h : q ≠ r) :
    (d.set r e).get q = d.get q := by
  cases r <;> cases q <;> first | rfl | exact absurd rfl h

@[simp] theorem Datapath.set_w (d : Datapath) (r : VReg) (e : Block) : (d.set r e).w = d.w := by
  cases r <;> rfl

@[simp] theorem Datapath.set_inner (d : Datapath) (r : VReg) (e : Block) : (d.set r e).inner = d.inner := by
  cases r <;> rfl

/-- Writing a working register is all `setVReg` does. -/
theorem setVReg_setsOnly (s : State) (dst : VReg) (e : Block) :
    SetsOnly s (.next (setVReg s dst e)) dst e :=
  ⟨_, rfl, by simp, fun _ h => Datapath.get_set_other _ _ h, by simp, by simp, rfl⟩

end Sys2Proof.Machine
end

