-- ==== Sys2Proof/Laws/Lanes.lean ====
section
/-! SUPPORT. The laws of lanes: what each lane of a built vector and of an operation's result is. -/

namespace Sys2Proof.Machine

theorem lane_getLsbD (v : Block) (l i : Nat) :
    (lane v l).getLsbD i = (decide (i < 32) && v.getLsbD (32 * l + i)) := by
  simp [lane]

/-- Bit `i` of a vector built from lanes. -/
theorem lanes_getLsbD (e0 e1 e2 e3 : Word32) (i : Nat) :
    (lanes e0 e1 e2 e3).getLsbD i =
      (if i < 32 then e0.getLsbD i else if i < 64 then e1.getLsbD (i - 32)
        else if i < 96 then e2.getLsbD (i - 64) else e3.getLsbD (i - 96)) := by
  simp only [lanes, BitVec.getLsbD_or, BitVec.getLsbD_shiftLeft, BitVec.getLsbD_setWidth]
  by_cases h0 : i < 32
  · simp [h0, show i < 64 by omega, show i < 96 by omega, show i < 128 by omega]
  · by_cases h1 : i < 64
    · simp [h0, h1, show i < 96 by omega, show i < 128 by omega, BitVec.getLsbD_of_ge e0 i (by omega)]
      omega
    · by_cases h2 : i < 96
      · simp [h0, h1, h2, show i < 128 by omega, BitVec.getLsbD_of_ge e0 i (by omega),
          BitVec.getLsbD_of_ge e1 (i - 32) (by omega)]
        omega
      · by_cases h3 : i < 128
        · simp [h0, h1, h2, h3, BitVec.getLsbD_of_ge e0 i (by omega),
            BitVec.getLsbD_of_ge e1 (i - 32) (by omega), BitVec.getLsbD_of_ge e2 (i - 64) (by omega)]
          omega
        · simp [h0, h1, h2, h3, BitVec.getLsbD_of_ge e3 (i - 96) (by omega)]

@[simp] theorem lane_lanes_zero (e0 e1 e2 e3 : Word32) : lane (lanes e0 e1 e2 e3) 0 = e0 := by
  apply BitVec.eq_of_getLsbD_eq
  intro i hi
  rw [lane_getLsbD, lanes_getLsbD]
  simp only [hi, decide_true, Bool.true_and, Nat.mul_zero, Nat.zero_add, if_true]

@[simp] theorem lane_lanes_one (e0 e1 e2 e3 : Word32) : lane (lanes e0 e1 e2 e3) 1 = e1 := by
  apply BitVec.eq_of_getLsbD_eq
  intro i hi
  rw [lane_getLsbD, lanes_getLsbD, if_neg (by omega), if_pos (by omega), show 32 * 1 + i - 32 = i by omega]
  simp only [hi, decide_true, Bool.true_and]

@[simp] theorem lane_lanes_two (e0 e1 e2 e3 : Word32) : lane (lanes e0 e1 e2 e3) 2 = e2 := by
  apply BitVec.eq_of_getLsbD_eq
  intro i hi
  rw [lane_getLsbD, lanes_getLsbD, if_neg (by omega), if_neg (by omega), if_pos (by omega),
    show 32 * 2 + i - 64 = i by omega]
  simp only [hi, decide_true, Bool.true_and]

@[simp] theorem lane_lanes_three (e0 e1 e2 e3 : Word32) : lane (lanes e0 e1 e2 e3) 3 = e3 := by
  apply BitVec.eq_of_getLsbD_eq
  intro i hi
  rw [lane_getLsbD, lanes_getLsbD, if_neg (by omega), if_neg (by omega), if_neg (by omega),
    show 32 * 3 + i - 96 = i by omega]
  simp only [hi, decide_true, Bool.true_and]

/-- Two vectors with equal lanes are equal. -/
theorem eq_of_lanes {u v : Block} (h : ∀ l, l < 4 → lane u l = lane v l) : u = v := by
  apply BitVec.eq_of_getLsbD_eq
  intro i hi
  have := congrArg (fun e => e.getLsbD (i % 32)) (h (i / 32) (by omega))
  simpa only [lane_getLsbD, show i % 32 < 32 by omega, decide_true, Bool.true_and, Nat.div_add_mod] using this

/-- A vector is built from its lanes. -/
@[simp] theorem lanes_lane (v : Block) : lanes (lane v 0) (lane v 1) (lane v 2) (lane v 3) = v := by
  apply eq_of_lanes
  intro l hl
  rcases show l = 0 ∨ l = 1 ∨ l = 2 ∨ l = 3 by omega with rfl | rfl | rfl | rfl <;> simp

theorem lane_vand (u w : Block) (l : Nat) : lane (vand u w) l = lane u l &&& lane w l := by
  apply BitVec.eq_of_getLsbD_eq
  intro i hi
  simp only [BitVec.getLsbD_and, lane_getLsbD, vand, hi, decide_true, Bool.true_and]

theorem lane_vxor (u w : Block) (l : Nat) : lane (vxor u w) l = lane u l ^^^ lane w l := by
  apply BitVec.eq_of_getLsbD_eq
  intro i hi
  simp only [BitVec.getLsbD_xor, lane_getLsbD, vxor, hi, decide_true, Bool.true_and]

theorem lane_vsrl32 (u : Block) (k : Nat) {l : Nat} (hl : l < 4) : lane (vsrl32 u k) l = lane u l >>> k := by
  rcases show l = 0 ∨ l = 1 ∨ l = 2 ∨ l = 3 by omega with rfl | rfl | rfl | rfl <;> simp [vsrl32]

theorem lane_vsll32 (u : Block) (k : Nat) {l : Nat} (hl : l < 4) : lane (vsll32 u k) l = lane u l <<< k := by
  rcases show l = 0 ∨ l = 1 ∨ l = 2 ∨ l = 3 by omega with rfl | rfl | rfl | rfl <;> simp [vsll32]

/-- Replacing a lane replaces that lane and no other. -/
theorem lane_setLane (v : Block) {l q : Nat} (e : Word32) (hq : q < 4) :
    lane (setLane v l e) q = if q = l then e else lane v q := by
  rcases show q = 0 ∨ q = 1 ∨ q = 2 ∨ q = 3 by omega with rfl | rfl | rfl | rfl <;>
    simp [setLane, eq_comm]

/-- MASK lane by lane (40_lane_vector.md R107). -/
theorem lane_maskOf (p : ParameterSet) {l : Nat} (hl : l < 4) : lane (maskOf p) l = paramMsk p l := by
  rcases show l = 0 ∨ l = 1 ∨ l = 2 ∨ l = 3 by omega with rfl | rfl | rfl | rfl <;> simp [maskOf]

end Sys2Proof.Machine
end

