-- ==== Sys2Proof/Laws/Memory.lean ====
section
/-! SUPPORT. The laws of keyed data and of the state memory: read after write, the canonical form, and the
ranges. -/

namespace Sys2Proof.Machine

@[simp] theorem Cells.read_write_same {α : Type} (m : Cells α) (k : Nat) (v : α) :
    Cells.read (Cells.write m k v) k = some v := by
  induction m with
  | nil => simp [Cells.write, Cells.read]
  | cons e m ih =>
    obtain ⟨j, x⟩ := e
    simp only [Cells.write]
    split
    · simp [Cells.read]
    · split
      · simp [Cells.read]
      · next h1 h2 => simp [Cells.read, show ¬ j = k by omega, ih]

theorem Cells.read_write_other {α : Type} (m : Cells α) {k q : Nat} (v : α) (h : q ≠ k) :
    Cells.read (Cells.write m k v) q = Cells.read m q := by
  induction m with
  | nil => simp [Cells.write, Cells.read, show ¬ k = q by omega]
  | cons e m ih =>
    obtain ⟨j, x⟩ := e
    simp only [Cells.write]
    split
    · simp [Cells.read, show ¬ k = q by omega]
    · split
      · next h1 h2 => subst h2; simp [Cells.read, show ¬ k = q by omega]
      · simp [Cells.read, ih]

theorem Cells.mem_write {α : Type} (m : Cells α) (k : Nat) (v : α) {e : Nat × α}
    (h : e ∈ Cells.write m k v) : e = (k, v) ∨ e ∈ m := by
  induction m with
  | nil => simpa [Cells.write] using h
  | cons f m ih =>
    obtain ⟨j, x⟩ := f
    simp only [Cells.write] at h
    split at h
    · simpa using h
    · split at h
      · simp only [List.mem_cons] at h ⊢; tauto
      · simp only [List.mem_cons] at h ⊢
        rcases h with h | h
        · tauto
        · rcases ih h with h | h <;> tauto

/-- Every write keeps the canonical form. -/
theorem Cells.wf_write {α : Type} {m : Cells α} (h : Cells.wf m) (k : Nat) (v : α) :
    Cells.wf (Cells.write m k v) := by
  induction m with
  | nil => simp [Cells.write, Cells.wf]
  | cons e m ih =>
    obtain ⟨j, x⟩ := e
    simp only [Cells.wf, List.pairwise_cons] at h
    simp only [Cells.write]
    split
    · next hk =>
      simp only [Cells.wf, List.pairwise_cons, List.mem_cons]
      refine ⟨?_, h⟩
      rintro e (rfl | he)
      · exact hk
      · exact Nat.lt_trans hk (h.1 e he)
    · split
      · next h1 h2 => subst h2; simpa only [Cells.wf, List.pairwise_cons] using h
      · next h1 h2 =>
        simp only [Cells.wf, List.pairwise_cons]
        refine ⟨fun e he => ?_, ih h.2⟩
        rcases Cells.mem_write m k v he with rfl | he
        · show j < k; omega
        · exact h.1 e he

@[simp] theorem Memory.block_setBlock_same (m : Memory) (k : Nat) (v : Block) :
    (m.setBlock k v).block k = some v := Cells.read_write_same m k v

theorem Memory.block_setBlock_other (m : Memory) {k q : Nat} (v : Block) (h : q ≠ k) :
    (m.setBlock k v).block q = m.block q := Cells.read_write_other m v h

theorem Memory.wf_setBlock {m : Memory} (h : Memory.wf m) (k : Nat) (v : Block) :
    Memory.wf (m.setBlock k v) := Cells.wf_write h k v

theorem Memory.within_setBlock {m : Memory} {n k : Nat} (h : m.within n = true) (hk : k < n) (v : Block) :
    (m.setBlock k v).within n = true := by
  simp only [Memory.within, List.all_eq_true, decide_eq_true_eq] at h ⊢
  intro e he
  rcases Cells.mem_write m k v he with rfl | he
  · exact hk
  · exact h e he

theorem Memory.full_iff {m : Memory} {n : Nat} :
    m.full n = true ↔ ∀ k, k < n → ∃ v, m.block k = some v := by
  simp [Memory.full, Option.isSome_iff_exists]

/-- A word whose block is set reads. -/
theorem Memory.w32_of_full {m : Memory} {n p : Nat} (h : m.full n = true) (hp : p < 4 * n) :
    ∃ r, m.w32 p = some r := by
  obtain ⟨v, hv⟩ := Memory.full_iff.1 h (p / 4) (by omega)
  exact ⟨lane v (p % 4), by simp [Memory.w32, hv]⟩

/-- Where the canonical form holds, a key that no entry lists reads as no value, and a listed entry reads
as itself. -/
theorem Cells.read_of_mem {α : Type} {m : Cells α} (h : Cells.wf m) {k : Nat} {v : α} (hm : (k, v) ∈ m) :
    Cells.read m k = some v := by
  induction m with
  | nil => simp at hm
  | cons e m ih =>
    obtain ⟨j, x⟩ := e
    simp only [Cells.wf, List.pairwise_cons] at h
    simp only [List.mem_cons, Prod.mk.injEq] at hm
    rcases hm with ⟨rfl, rfl⟩ | hm
    · simp [Cells.read]
    · have := h.1 _ hm
      simp only at this
      simp [Cells.read, show ¬ j = k by omega, ih h.2 hm]

theorem Cells.mem_of_read {α : Type} {m : Cells α} {k : Nat} {v : α} (h : Cells.read m k = some v) :
    (k, v) ∈ m := by
  induction m with
  | nil => simp [Cells.read] at h
  | cons e m ih =>
    obtain ⟨j, x⟩ := e
    simp only [Cells.read] at h
    split at h
    · next hj => subst hj; simp_all
    · exact List.mem_cons_of_mem _ (ih h)

/-- Canonical data are equal when they read equal at every key. -/
theorem Cells.ext_of_read {α : Type} {m n : Cells α} (hm : Cells.wf m) (hn : Cells.wf n)
    (h : ∀ k, Cells.read m k = Cells.read n k) : m = n := by
  have hmem : ∀ e, e ∈ m ↔ e ∈ n := fun ⟨k, v⟩ =>
    ⟨fun he => Cells.mem_of_read (by rw [← h]; exact Cells.read_of_mem hm he),
     fun he => Cells.mem_of_read (by rw [h]; exact Cells.read_of_mem hn he)⟩
  have irr : ∀ {l : Cells α}, Cells.wf l → l.Nodup := fun hl =>
    List.Pairwise.imp (fun {a b} hab => by intro he; subst he; exact absurd hab (Nat.lt_irrefl _)) hl
  have hp : m.Perm n := (List.perm_ext_iff_of_nodup (irr hm) (irr hn)).2 hmem
  exact hp.eq_of_pairwise (le := fun p q => p.1 < q.1)
    (fun a b _ _ hab hba => absurd (Nat.lt_trans hab hba) (Nat.lt_irrefl _)) hm hn

end Sys2Proof.Machine
end

