-- ==== Sys2Proof/Laws/Recurrence.lean ====
section
/-! SUPPORT. What RECUR and REGEN do, said once (41_recurrence.md R120 to R122). -/

namespace Sys2Proof.Machine

/-- The value RECUR returns, in closed form (41_recurrence.md R121). -/
theorem recurOp_value (p : ParameterSet) (d : Datapath) :
    (recurOp p d).2 = recurClosed p d.a d.b d.c d.d := by
  simp only [recurOp, Datapath.set, vxor, vand, recurClosed]
  apply BitVec.eq_of_getLsbD_eq
  intro i _
  simp only [BitVec.getLsbD_xor, BitVec.getLsbD_and]
  generalize (vsrlb d.c p.sr2).getLsbD i = c0, d.a.getLsbD i = a0, (vsll32 d.d p.sl1).getLsbD i = d0,
    (vsllb d.a p.sl2).getLsbD i = x0, (vsrl32 d.b p.sr1).getLsbD i = b0, (maskOf p).getLsbD i = m0
  cases c0 <;> cases a0 <;> cases d0 <;> cases x0 <;> cases b0 <;> cases m0 <;> rfl

theorem recurValue_eq (p : ParameterSet) (a b c d : Block) :
    recurValue p a b c d = recurClosed p a b c d := recurOp_value _ _

/-- RECUR writes x, y, z and v only. -/
theorem recurOp_frame (p : ParameterSet) (d : Datapath) :
    (recurOp p d).1.a = d.a ∧ (recurOp p d).1.b = d.b ∧ (recurOp p d).1.c = d.c ∧ (recurOp p d).1.d = d.d ∧
      (recurOp p d).1.r1 = d.r1 ∧ (recurOp p d).1.r2 = d.r2 ∧ (recurOp p d).1.w = d.w ∧
      (recurOp p d).1.inner = d.inner := by
  simp [recurOp, Datapath.set]

theorem partner_lt {n pos1 i : Nat} (hi : i < n) (hp : pos1 ≤ n - 1) : partner n pos1 i < n := by
  unfold partner; split <;> omega

theorem partner_eq_mod {n pos1 i : Nat} (hi : i < n) (hp : pos1 ≤ n - 1) :
    partner n pos1 i = (i + pos1) % n := by
  unfold partner
  split
  · rw [Nat.mod_eq_sub_mod (by omega), Nat.mod_eq_of_lt (by omega)]
  · rw [Nat.mod_eq_of_lt (by omega)]

/-- A round of REGEN reads two blocks and writes one (41_recurrence.md R122). -/
theorem regenRound_of_set (p : ParameterSet) {n i : Nat} (d : Datapath) {m : Memory} {av bv : Block}
    (ha : m.block i = some av) (hb : m.block (partner n p.pos1 i) = some bv) :
    ∃ d', regenRound p n i d m = some (d', m.setBlock i (recurClosed p av bv d.r1 d.r2)) ∧
      d'.r1 = d.r2 ∧ d'.r2 = recurClosed p av bv d.r1 d.r2 ∧ d'.w = d.w ∧ d'.inner = d.inner := by
  simp only [regenRound, ha, hb, recurOp_value]
  exact ⟨_, rfl, rfl, rfl, rfl, rfl⟩

/-- Over a state memory whose blocks are all set, the rounds go through, keep every block set, keep the
canonical form and touch no other block. -/
theorem regenLoop_of_full (p : ParameterSet) {n : Nat} (hp : p.pos1 ≤ n - 1) :
    ∀ (cnt i : Nat) (d : Datapath) (m : Memory), i + cnt ≤ n → m.full n = true →
      ∃ d' m', regenLoop p n cnt i d m = some (d', m') ∧ m'.full n = true ∧
        (Memory.wf m → Memory.wf m') ∧ (m.within n = true → m'.within n = true) ∧
        ∀ k, n ≤ k → m'.block k = m.block k
  | 0, i, d, m, _, hm => ⟨d, m, rfl, hm, id, id, fun _ _ => rfl⟩
  | cnt + 1, i, d, m, hi, hm => by
    obtain ⟨av, ha⟩ := Memory.full_iff.1 hm i (by omega)
    obtain ⟨bv, hb⟩ := Memory.full_iff.1 hm _ (partner_lt (n := n) (i := i) (by omega) hp)
    obtain ⟨d1, hr, -⟩ := regenRound_of_set p d ha hb
    have hfull : (m.setBlock i (recurClosed p av bv d.r1 d.r2)).full n = true := by
      rw [Memory.full_iff] at hm ⊢
      intro k hk
      by_cases hki : k = i
      · subst hki; exact ⟨_, Memory.block_setBlock_same _ _ _⟩
      · rw [Memory.block_setBlock_other _ _ hki]; exact hm k hk
    obtain ⟨d', m', h1, h2, h3, h4, h5⟩ := regenLoop_of_full p hp cnt (i + 1) d1 _ (by omega) hfull
    refine ⟨d', m', ?_, h2, fun h => h3 (Memory.wf_setBlock h _ _),
      fun h => h4 (Memory.within_setBlock h (by omega) _), fun k hk => ?_⟩
    · simp only [regenLoop, hr, h1]
    · rw [h5 k hk, Memory.block_setBlock_other _ _ (by omega)]

theorem mexp_nblk_ge (c : Config) : 5 ≤ c.nblk := by
  obtain ⟨m, _, _⟩ := c
  cases m <;> simp [Config.nblk, Mexp.toNat]

/-- REGEN on a state memory whose blocks are all set: everything it can do (41_recurrence.md R122). -/
theorem regenOp_of_full {s : State} (hw : s.cfg.wf) (hm : s.sm.full s.cfg.nblk = true) :
    ∃ m dp, regenOp s = some { s with sm := m, dp := dp, cursor := 0, regenCount := s.regenCount + 1 } ∧
      m.full s.cfg.nblk = true ∧ (Memory.wf s.sm → Memory.wf m) ∧
      (s.sm.within s.cfg.nblk = true → m.within s.cfg.nblk = true) ∧
      ∀ k, s.cfg.nblk ≤ k → m.block k = s.sm.block k := by
  have h5 := mexp_nblk_ge s.cfg
  obtain ⟨v1, h1⟩ := Memory.full_iff.1 hm (s.cfg.nblk - 2) (by omega)
  obtain ⟨v2, h2⟩ := Memory.full_iff.1 hm (s.cfg.nblk - 1) (by omega)
  obtain ⟨d', m', hl, ha, hb, hc, hd⟩ := regenLoop_of_full s.cfg.params (n := s.cfg.nblk) hw.1.1.2 s.cfg.nblk 0
    { s.dp with r1 := v1, r2 := v2 } s.sm (by omega) hm
  exact ⟨m', d', by simp only [regenOp, h1, h2, hl], ha, hb, hc, hd⟩

/-- Whatever REGEN answers, it changes SM, the working registers, cursor and REGEN_COUNT only. -/
theorem regenOp_frame {s t : State} (h : regenOp s = some t) :
    t = { s with sm := t.sm, dp := t.dp, cursor := 0, regenCount := s.regenCount + 1 } := by
  simp only [regenOp] at h
  split at h
  · split at h
    · cases h; rfl
    · cases h
  · cases h

end Sys2Proof.Machine
end

