-- ==== Sys2Proof/Laws/SeedCertify.lean ====
section
/-! SUPPORT. What EXPAND, CERTIFY and SEED do, said once (42_seed_certify.md R140 to R145). -/

namespace Sys2Proof.Machine

/-- Block `k` of an expanded seed (42_seed_certify.md R142). -/
theorem seedChain_eq (s : Word32) (k : Nat) :
    seedChain k (seedWord s (4 * k)) =
      (seedWord s (4 * k), seedWord s (4 * k + 1), seedWord s (4 * k + 2), seedWord s (4 * k + 3)) := rfl

/-- The expansion loop: the blocks it writes, the last word it makes, and what it leaves. -/
theorem expandLoop_spec (s : Word32) :
    ∀ (cnt k : Nat) (m : Memory), ∃ w m', expandLoop cnt k (seedWord s (4 * k)) m = (w, m') ∧
      (0 < cnt → w = seedWord s (4 * (k + cnt) - 1)) ∧
      (∀ j, k ≤ j → j < k + cnt → m'.block j = some (lanes (seedWord s (4 * j)) (seedWord s (4 * j + 1))
        (seedWord s (4 * j + 2)) (seedWord s (4 * j + 3)))) ∧
      (∀ j, j < k ∨ k + cnt ≤ j → m'.block j = m.block j) ∧
      (Memory.wf m → Memory.wf m') ∧
      (∀ n, k + cnt ≤ n → m.within n = true → m'.within n = true)
  | 0, k, m => ⟨_, m, rfl, by omega, by omega, fun _ _ => rfl, id, fun _ _ => id⟩
  | cnt + 1, k, m => by
    simp only [expandLoop, seedChain_eq]
    by_cases hc : cnt = 0
    · subst hc
      simp only [if_true]
      refine ⟨_, _, rfl, fun _ => by congr 1, fun j h1 h2 => ?_, fun j hj => ?_,
        fun h => Memory.wf_setBlock h _ _, fun n hn h => Memory.within_setBlock h (by omega) _⟩
      · obtain rfl : j = k := by omega
        exact Memory.block_setBlock_same _ _ _
      · exact Memory.block_setBlock_other _ _ (by omega)
    · simp only [if_neg hc]
      obtain ⟨w, m', h1, h2, h3, h4, h5, h6⟩ := expandLoop_spec s cnt (k + 1) (m.setBlock k
        (lanes (seedWord s (4 * k)) (seedWord s (4 * k + 1)) (seedWord s (4 * k + 2)) (seedWord s (4 * k + 3))))
      refine ⟨w, m', h1, fun _ => ?_, fun j hj1 hj2 => ?_, fun j hj => ?_,
        fun h => h5 (Memory.wf_setBlock h _ _), fun n hn h => h6 n (by omega) (Memory.within_setBlock h (by omega) _)⟩
      · rw [h2 (by omega)]; congr 1; omega
      · by_cases hjk : j = k
        · subst hjk
          rw [h4 j (by omega), Memory.block_setBlock_same]
        · exact h3 j (by omega) (by omega)
      · rw [h4 j (by omega), Memory.block_setBlock_other _ _ (by omega)]

/-- EXPAND (42_seed_certify.md R142): everything it does. -/
theorem expandOp_spec (seed : Word32) (s : State) :
    ∃ m dp, expandOp seed s = { s with sm := m, dp := dp } ∧
      (∀ j, j < s.cfg.nblk → m.block j = some (lanes (seedWord seed (4 * j)) (seedWord seed (4 * j + 1))
        (seedWord seed (4 * j + 2)) (seedWord seed (4 * j + 3)))) ∧
      (∀ j, s.cfg.nblk ≤ j → m.block j = s.sm.block j) ∧
      (Memory.wf s.sm → Memory.wf m) ∧ (s.sm.within s.cfg.nblk = true → m.within s.cfg.nblk = true) := by
  obtain ⟨w, m, h1, -, h3, h4, h5, h6⟩ := expandLoop_spec seed s.cfg.nblk 0 s.sm
  refine ⟨m, { s.dp with w := w }, ?_, fun j hj => h3 j (by omega) (by omega), fun j hj => h4 j (by omega), h5,
    h6 _ (by omega)⟩
  have h1' : expandLoop s.cfg.nblk 0 seed s.sm = (w, m) := h1
  simp only [expandOp, h1']

/-- CERTIFY on a set block 0 (42_seed_certify.md R144): everything it does. -/
theorem certifyOp_of_set {s : State} {v : Block} (h : s.sm.block 0 = some v) :
    certifyOp s = some { s with
      sm := s.sm.setBlock 0 (certifyBlock s.cfg.params v)
      dp := { s.dp with inner := innerOf s.cfg.params v } } := by
  simp only [certifyOp, h]

/-- SEED (42_seed_certify.md R140): everything it does. -/
theorem seedOp_spec (s : State) :
    ∃ m dp, seedOp s = some { s with
        sm := m, cursor := s.cfg.nwords, seeded := true, dp := dp, err := ErrCode.ok.bits, pend := none } ∧
      m.block 0 = some (certifyBlock s.cfg.params
        (lanes (seedWord s.din 0) (seedWord s.din 1) (seedWord s.din 2) (seedWord s.din 3))) ∧
      (∀ j, 1 ≤ j → j < s.cfg.nblk → m.block j = some (lanes (seedWord s.din (4 * j))
        (seedWord s.din (4 * j + 1)) (seedWord s.din (4 * j + 2)) (seedWord s.din (4 * j + 3)))) ∧
      (∀ j, s.cfg.nblk ≤ j → m.block j = s.sm.block j) ∧
      (Memory.wf s.sm → Memory.wf m) ∧ (s.sm.within s.cfg.nblk = true → m.within s.cfg.nblk = true) := by
  have hn := mexp_nblk_ge s.cfg
  obtain ⟨m, dp, h1, h2, h3, h4, h5⟩ := expandOp_spec s.din s
  have h0 := h2 0 (by omega)
  refine ⟨m.setBlock 0 (certifyBlock s.cfg.params
      (lanes (seedWord s.din 0) (seedWord s.din 1) (seedWord s.din 2) (seedWord s.din 3))),
    { dp with
      inner := innerOf s.cfg.params
        (lanes (seedWord s.din 0) (seedWord s.din 1) (seedWord s.din 2) (seedWord s.din 3)) }, ?_,
    Memory.block_setBlock_same _ _ _, fun j hj1 hj2 => ?_, fun j hj => ?_, fun h => Memory.wf_setBlock (h4 h) _ _,
    fun h => Memory.within_setBlock (h5 h) (by omega) _⟩
  · simp only [seedOp, h1]
    rw [certifyOp_of_set h0]
    rfl
  · rw [Memory.block_setBlock_other _ _ (by omega), h2 j hj2]
  · rw [Memory.block_setBlock_other _ _ (by omega), h3 j hj]

/-- After SEED every block is set. -/
theorem seedOp_full {s t : State} (h : seedOp s = some t) : t.sm.full s.cfg.nblk = true := by
  obtain ⟨m, dp, h1, h2, h3, -, -, -⟩ := seedOp_spec s
  rw [h1] at h
  cases h
  refine Memory.full_iff.2 fun k hk => ?_
  by_cases hk0 : k = 0
  · subst hk0; exact ⟨_, h2⟩
  · exact ⟨_, h3 k (by omega) hk⟩

end Sys2Proof.Machine
end

