-- ==== Sys2Proof/Laws/Extraction.lean ====
section
/-! SUPPORT. What NEXT32 and NEXT64 do on a seeded engine whose blocks are all set, said once
(43_extraction.md R160, R161). -/

namespace Sys2Proof.Machine

/-- The regeneration check of a read: the state it leaves has all blocks set, and a cursor below the limit
(41_recurrence.md R126). -/
theorem regenFrom_of_full {s : State} {limit : Nat} (hw : s.cfg.wf) (hm : s.sm.full s.cfg.nblk = true) :
    ∃ m dp, regenFrom limit s = some { s with
        sm := m, dp := dp
        cursor := if s.cursor ≥ limit then 0 else s.cursor
        regenCount := if s.cursor ≥ limit then s.regenCount + 1 else s.regenCount } ∧
      m.full s.cfg.nblk = true ∧ (s.cursor < limit → m = s.sm) ∧ (Memory.wf s.sm → Memory.wf m) ∧
      (s.sm.within s.cfg.nblk = true → m.within s.cfg.nblk = true) := by
  by_cases hc : s.cursor ≥ limit
  · obtain ⟨m, dp, h1, h2, h3, h4, -⟩ := regenOp_of_full hw hm
    exact ⟨m, dp, by simp only [regenFrom, if_pos hc, h1], h2, by omega, h3, h4⟩
  · exact ⟨s.sm, s.dp, by simp only [regenFrom, if_neg hc], hm, fun _ => rfl, id, id⟩

/-- NEXT32 on a seeded engine: everything it does. -/
theorem pop32_of_full {s : State} (hw : s.cfg.wf) (hm : s.sm.full s.cfg.nblk = true) :
    ∃ m dp r, pop32 s = some { s with
        sm := m, dp := dp
        cursor := (if s.cursor ≥ s.cfg.nwords then 0 else s.cursor) + 1
        regenCount := if s.cursor ≥ s.cfg.nwords then s.regenCount + 1 else s.regenCount
        dout0 := r, dout1 := 0, err := ErrCode.ok.bits, pend := none } ∧
      m.w32 (if s.cursor ≥ s.cfg.nwords then 0 else s.cursor) = some r ∧
      m.full s.cfg.nblk = true ∧ (s.cursor < s.cfg.nwords → m = s.sm) ∧ (Memory.wf s.sm → Memory.wf m) ∧
      (s.sm.within s.cfg.nblk = true → m.within s.cfg.nblk = true) := by
  have hn := mexp_nblk_ge s.cfg
  have hW : s.cfg.nwords = 4 * s.cfg.nblk := rfl
  obtain ⟨m, dp, h1, h2, h3, h4, h5⟩ := regenFrom_of_full (limit := s.cfg.nwords) hw hm
  obtain ⟨r, hr⟩ := Memory.w32_of_full (p := if s.cursor ≥ s.cfg.nwords then 0 else s.cursor) h2
    (by split <;> omega)
  refine ⟨m, dp, r, ?_, hr, h2, h3, h4, h5⟩
  simp only [pop32, h1, hr]
  rfl

theorem Memory.w64_of_w32 {m : Memory} {p : Nat} {lo hi : Word32} (h0 : m.w32 p = some lo)
    (h1 : m.w32 (p + 1) = some hi) :
    ∃ r, m.w64 p = some r ∧ r.extractLsb' 0 32 = lo ∧ r.extractLsb' 32 32 = hi := by
  refine ⟨hi.setWidth 64 <<< 32 ||| lo.setWidth 64, by simp only [Memory.w64, h0, h1], ?_, ?_⟩
  · apply BitVec.eq_of_getLsbD_eq
    intro i hi'
    simp only [BitVec.getLsbD_extractLsb', BitVec.getLsbD_or, BitVec.getLsbD_shiftLeft, BitVec.getLsbD_setWidth]
    simp [hi', show i < 64 by omega]
  · apply BitVec.eq_of_getLsbD_eq
    intro i hi'
    simp only [BitVec.getLsbD_extractLsb', BitVec.getLsbD_or, BitVec.getLsbD_shiftLeft, BitVec.getLsbD_setWidth]
    rw [BitVec.getLsbD_of_ge lo (32 + i) (by omega)]
    simp [hi', show 32 + i < 64 by omega, show i < 64 by omega]

/-- NEXT64 on a seeded engine: everything it does. -/
theorem pop64_of_full {s : State} (hw : s.cfg.wf) (hm : s.sm.full s.cfg.nblk = true) :
    ∃ m dp lo hi, pop64 s = some { s with
        sm := m, dp := dp
        cursor := (if s.cursor ≥ s.cfg.nwords - 1 then 0 else s.cursor) + 2
        regenCount := if s.cursor ≥ s.cfg.nwords - 1 then s.regenCount + 1 else s.regenCount
        dout0 := lo, dout1 := hi, err := ErrCode.ok.bits, pend := none } ∧
      m.w32 (if s.cursor ≥ s.cfg.nwords - 1 then 0 else s.cursor) = some lo ∧
      m.w32 ((if s.cursor ≥ s.cfg.nwords - 1 then 0 else s.cursor) + 1) = some hi ∧
      m.full s.cfg.nblk = true ∧ (s.cursor < s.cfg.nwords - 1 → m = s.sm) ∧ (Memory.wf s.sm → Memory.wf m) ∧
      (s.sm.within s.cfg.nblk = true → m.within s.cfg.nblk = true) := by
  have hn := mexp_nblk_ge s.cfg
  have hW : s.cfg.nwords = 4 * s.cfg.nblk := rfl
  obtain ⟨m, dp, h1, h2, h3, h4, h5⟩ := regenFrom_of_full (limit := s.cfg.nwords - 1) hw hm
  obtain ⟨lo, h6⟩ := Memory.w32_of_full (p := if s.cursor ≥ s.cfg.nwords - 1 then 0 else s.cursor) h2
    (by split <;> omega)
  obtain ⟨hi, h7⟩ := Memory.w32_of_full (p := (if s.cursor ≥ s.cfg.nwords - 1 then 0 else s.cursor) + 1) h2
    (by split <;> omega)
  obtain ⟨r, h8, h9, h10⟩ := Memory.w64_of_w32 h6 h7
  refine ⟨m, dp, lo, hi, ?_, h6, h7, h2, h3, h4, h5⟩
  simp only [pop64, h1, h8, h9, h10]
  rfl

/-! From the operations to exec. -/

theorem exec_seed_of_op {s t : State} (h : seedOp s = some t) : exec .seed s = .next t := by
  simp only [exec, execSeed, h, orUnset]

theorem exec_regen_of_op {s t : State} (h : regenOp s = some t) : exec .regen s = .next t := by
  simp only [exec, execRegen, h, orUnset]

theorem exec_certify_of_op {s t : State} (h : certifyOp s = some t) : exec .certify s = .next t := by
  simp only [exec, execCertify, h, orUnset]

theorem exec_next32_of_pop {s t : State} (hs : s.seeded = true) (h : pop32 s = some t) :
    exec .next32 s = .next t := by
  simp only [exec, execNext32, hs, if_true, h, orUnset]

theorem exec_next64_of_pop {s t : State} (hs : s.seeded = true) (h : pop64 s = some t) :
    exec .next64 s = .next t := by
  simp only [exec, execNext64, hs, if_true, h, orUnset]

/-- Before any SEED the two reads end with ERR_UNSEEDED (60_exceptions.md R203). -/
theorem exec_next_unseeded {s : State} (hs : s.seeded = false) :
    exec .next32 s = .next (complete .unseeded s) ∧ exec .next64 s = .next (complete .unseeded s) := by
  simp [exec, execNext32, execNext64, hs]

/-- Whatever SEED answers comes from the operation. -/
theorem op_of_exec_seed {s t : State} (h : exec .seed s = .next t) : seedOp s = some t := by
  simp only [exec, execSeed, orUnset] at h
  split at h
  · next u hu => cases h; exact hu
  · cases h

/-- Whatever a read on a seeded engine answers comes from the operation. -/
theorem pop_of_exec_next32 {s t : State} (hs : s.seeded = true) (h : exec .next32 s = .next t) :
    pop32 s = some t := by
  simp only [exec, execNext32, hs, if_true, orUnset] at h
  split at h
  · next u hu => cases h; exact hu
  · cases h

theorem pop_of_exec_next64 {s t : State} (hs : s.seeded = true) (h : exec .next64 s = .next t) :
    pop64 s = some t := by
  simp only [exec, execNext64, hs, if_true, orUnset] at h
  split at h
  · next u hu => cases h; exact hu
  · cases h

end Sys2Proof.Machine
end

