-- ==== Sys2Proof/Laws/Step.lean ====
section
/-! SUPPORT. What one access, one turn and one step can do. -/

namespace Sys2Proof.Machine

/-- A register write changes PEND, DIN, STICKY and OVERRUN only (10_state.md R38, R39, R42). -/
theorem writeReg_frame (s : State) (w : Word32) (r : Reg) :
    writeReg s w r = { s with
      pend := (writeReg s w r).pend, din := (writeReg s w r).din
      sticky := (writeReg s w r).sticky, overrun := (writeReg s w r).overrun } := by
  cases r <;> simp only [writeReg] <;> (try split) <;> rfl

theorem busWrite_frame {s t : State} {a : Access} {w : Word32} (h : busWrite s a w = some t) :
    t = { s with pend := t.pend, din := t.din, sticky := t.sticky, overrun := t.overrun } := by
  simp only [busWrite] at h
  split at h
  · split at h
    · cases h; exact writeReg_frame _ _ _
    · cases h; rfl
  · cases h; rfl
  · cases h

/-- A read changes nothing of the engine (20_memory.md R69). -/
theorem busRead_frame {s : State} {a : Access} {q : Word64 × State} (h : busRead s a = some q) :
    q.2 = { s with freeIx := q.2.freeIx } := by
  simp only [busRead] at h
  split at h
  · split at h <;> cases h <;> rfl
  · cases h; rfl
  · cases h

/-- A host turn changes of the engine only what a register write changes; the schedule stays. -/
theorem hostTurn_frame {s t : State} (h : hostTurn s = .next t) :
    t = { s with
      pend := t.pend, din := t.din, sticky := t.sticky, overrun := t.overrun, host := t.host
      freeIx := t.freeIx } := by
  simp only [hostTurn] at h
  split at h
  · cases h; rfl
  · next p rest _ =>
    cases p <;> simp only [hostStmt] at h
    · split at h
      · next u hu =>
        have hf := busWrite_frame hu
        cases h
        rw [hf]
        rfl
      · cases h
    · split at h
      · next q hq =>
        have hf := busRead_frame hq
        cases h
        rw [hf]
        rfl
      · cases h
    · split at h
      · next q hq =>
        have hf := busRead_frame hq
        cases h
        rw [hf]
        rfl
      · cases h
    · cases h; rfl
    · cases h; rfl
    · cases h; rfl

/-- A host turn never faults. -/
theorem hostTurn_not_fault (s : State) (f : Fault) : hostTurn s ≠ .fault f := by
  simp only [hostTurn]
  split
  · simp
  · next p rest _ => cases p <;> simp only [hostStmt] <;> (try split) <;> simp

/-- What a step is: the first scheduled turn, or the default one (log entry 7). -/
theorem step_cases (s : State) :
    (∃ t rest, s.sched = t :: rest ∧ step s = takeTurn t { s with sched := rest }) ∨
    (s.sched = [] ∧ engineReady s = true ∧ step s = takeTurn .engine s) ∨
    (s.sched = [] ∧ engineReady s = false ∧ step s = takeTurn .host s) := by
  unfold step advance takeTurn
  cases hs : s.sched with
  | nil => cases hr : engineReady s <;> simp
  | cons t rest => exact .inl ⟨t, rest, rfl, rfl⟩

/-- A step takes the turn that comes next. -/
theorem step_of_turnNext {t : Turn} {s u : State} (h : TurnNext t s u) : step s = takeTurn t u := by
  rcases h with ⟨rest, h, rfl⟩ | ⟨h, rfl, rfl⟩
  · simp only [step, advance, h]
  · simp only [step, advance, h]
    cases engineReady u <;> rfl

/-- Some turn comes next. -/
theorem exists_turnNext (s : State) : ∃ t u, TurnNext t s u := by
  cases h : s.sched with
  | nil => exact ⟨_, s, .inr ⟨h, rfl, rfl⟩⟩
  | cons t rest => exact ⟨t, _, .inl ⟨rest, h, rfl⟩⟩

/-- Using up a turn changes the schedule only. -/
theorem turnNext_frame {t : Turn} {s u : State} (h : TurnNext t s u) : u = { s with sched := u.sched } := by
  rcases h with ⟨rest, -, rfl⟩ | ⟨-, -, rfl⟩ <;> rfl

/-- Where an access goes: a malformed one is refused, an aligned one reaches an offset of the window
(20_memory.md R68). -/
theorem target_malformed {base : Nat} {a : Access} : target base a = .malformed ↔ MalformedAccess base a := by
  obtain ⟨addr, width⟩ := a
  have hb : 1 ≤ width.bytes := by cases width <;> simp [Width.bytes]
  unfold target MalformedAccess
  by_cases ho : addr + width.bytes ≤ base ∨ base + 0x40 ≤ addr
  · simp only [if_pos ho]
    constructor
    · intro h; cases h
    · rintro ⟨h1, h2, -⟩
      omega
  · simp only [if_neg ho]
    by_cases hw : width = .w32 ∧ base ≤ addr ∧ (addr - base) % 4 = 0
    · simp only [if_pos hw]
      constructor
      · intro h; cases h
      · rintro ⟨-, -, h⟩
        obtain ⟨rfl, h1, h2⟩ := hw
        have hbytes : Width.w32.bytes = 4 := rfl
        exact absurd ⟨(addr - base) / 4, by omega, by simp only [Access.mk.injEq, and_true]; omega⟩ h
    · simp only [if_neg hw, true_iff]
      refine ⟨by omega, by omega, ?_⟩
      rintro ⟨k, hk, h⟩
      simp only [Access.mk.injEq] at h
      exact hw ⟨h.2, by omega, by omega⟩

/-- A run whose first step answers a next state goes on from there. -/
theorem run_of_step (M : Host.Core) {k : Nat} {s t : M.State} (h : M.step s = .next t) :
    M.run (k + 1) s = M.run k t := by
  simp only [Host.Core.run, h]

/-- What an engine turn is (30_encoding.md R90). -/
theorem engineTurn_cases (s : State) :
    (s.pend = none ∧ engineTurn s = .next s) ∨
    (∃ w, s.pend = some w ∧ s.halted = true ∧ engineTurn s = .next s) ∨
    (∃ w, s.pend = some w ∧ s.halted = false ∧ s.cursor > s.cfg.nwords ∧ engineTurn s = .next (defect s)) ∨
    (∃ w i, s.pend = some w ∧ s.halted = false ∧ s.cursor ≤ s.cfg.nwords ∧ decode w = .command i ∧
      engineTurn s = exec i s) ∨
    (∃ w y, s.pend = some w ∧ s.halted = false ∧ s.cursor ≤ s.cfg.nwords ∧ decode w = .illegal y ∧
      engineTurn s = .next (complete .illegal s)) := by
  unfold engineTurn runWord
  cases hp : s.pend with
  | none => simp
  | some w =>
    cases hh : s.halted with
    | true => simp
    | false =>
      by_cases hc : s.cursor > s.cfg.nwords
      · simp [hc]
      · cases hd : decode w <;> simp [hc, hd] <;> omega

/-- The decoder yields host commands only (30_encoding.md R85). -/
theorem decode_command {w : Word32} {i : Instr} (h : decode w = .command i) :
    (w = 1#32 ∧ i = .seed) ∨ (w = 2#32 ∧ i = .next32) ∨ (w = 3#32 ∧ i = .next64) := by
  have key : ∀ n : BitVec 8, rsvdField w = 0 → opcField w = n → w = n.setWidth 32 := by
    intro n h0 hn
    apply BitVec.eq_of_getLsbD_eq
    intro i hi
    by_cases h8 : i < 8
    · have := congrArg (fun e => e.getLsbD i) hn
      simp only [opcField, BitVec.getLsbD_extractLsb', h8, decide_true, Bool.true_and, Nat.zero_add] at this
      simp only [BitVec.getLsbD_setWidth, hi, decide_true, Bool.true_and, this]
    · have := congrArg (fun e => e.getLsbD (i - 8)) h0
      simp only [rsvdField, BitVec.getLsbD_extractLsb', show i - 8 < 24 by omega, decide_true, Bool.true_and,
        show 8 + (i - 8) = i by omega] at this
      rw [this, BitVec.getLsbD_setWidth, BitVec.getLsbD_of_ge n i (by omega)]
      simp
  unfold decode at h
  split at h
  · cases h
  · next hr =>
    have hr : rsvdField w = 0 := by simpa using hr
    split at h
    · next ho => cases h; exact .inl ⟨key _ hr ho, rfl⟩
    · split at h
      · next ho => cases h; exact .inr (.inl ⟨key _ hr ho, rfl⟩)
      · split at h
        · next ho => cases h; exact .inr (.inr ⟨key _ hr ho, rfl⟩)
        · cases h

end Sys2Proof.Machine
end

