-- ==== Sys2Proof/Laws/PerInstr.lean ====
section
/-! SUPPORT. Facts about each instruction as syntax, one lemma per constructor. -/

namespace Sys2Proof.Laws.DecodeEncode

/-- The command word of an instruction, where it has one, decodes to it. -/
def Statement (i : Instr) : Prop := ∀ w, encode i = some w → decode w = .command i

theorem seed : Statement .seed := by intro w h; cases h; decide
theorem next32 : Statement .next32 := by intro w h; cases h; decide
theorem next64 : Statement .next64 := by intro w h; cases h; decide
theorem vand (dst : VReg) (u w : VSrc) : Statement (.vand dst u w) := by intro w h; cases h
theorem vxor (dst : VReg) (u w : VSrc) : Statement (.vxor dst u w) := by intro w h; cases h
theorem vsrl32 (dst : VReg) (u : VSrc) (k : Nat) : Statement (.vsrl32 dst u k) := by intro w h; cases h
theorem vsll32 (dst : VReg) (u : VSrc) (k : Nat) : Statement (.vsll32 dst u k) := by intro w h; cases h
theorem vsrlb (dst : VReg) (u : VSrc) (k : Nat) : Statement (.vsrlb dst u k) := by intro w h; cases h
theorem vsllb (dst : VReg) (u : VSrc) (k : Nat) : Statement (.vsllb dst u k) := by intro w h; cases h
theorem recur (dst : VReg) : Statement (.recur dst) := by intro w h; cases h
theorem regen : Statement .regen := by intro w h; cases h
theorem expand (s : Word32) : Statement (.expand s) := by intro w h; cases h
theorem certify : Statement .certify := by intro w h; cases h

end Sys2Proof.Laws.DecodeEncode
end

