-- ==== Sys2Proof/Tests/Slice0.lean ====
section
/-! SUPPORT. Tests of the model on fixed values, and for each statement a witness that its hypotheses can be
met. Expected values are those of spec/ (the place is named), never the model's own answer. -/

namespace Sys2Proof.Tests

open Sys2Proof Sys2Proof.Machine

/-! ## Helpers -/

/-- The state an outcome answers, or the given one. -/
def orElse (o : Host.Outcome State Fault Refusal) (d : State) : State :=
  match o with
  | .next t => t
  | .fault _ => d
  | .refused _ => d

def isNext (o : Host.Outcome State Fault Refusal) : Bool :=
  match o with
  | .next _ => true
  | .fault _ => false
  | .refused _ => false

theorem exists_of_isNext {o : Host.Outcome State Fault Refusal} (h : isNext o = true) : ∃ t, o = .next t := by
  cases o with
  | next t => exact ⟨t, rfl⟩
  | fault f => cases h
  | refused f => cases h

/-- The state after one instruction. -/
def after (i : Instr) (s : State) : State := orElse (exec i s) s

/-- The state after `n` steps. -/
def steps (n : Nat) (s : State) : State := orElse (core.run n s) s

/-- A fresh instance of a size, with its default table. -/
def fresh (m : Mexp) : State := State.resetOf ⟨m, defaultParams m, 0⟩

/-- An instance after `seed32 v`. -/
def seededWith (m : Mexp) (v : Word32) : State := after .seed { fresh m with din := v }

/-- MEXP 607 after `seed32 1234`. -/
def seeded : State := seededWith .m607 1234#32

/-- The same after one `get32`, with the cursor placed. -/
def reading (c : Nat) : State := { after .next32 seeded with cursor := c }

/-- A state with one turn scheduled and a host program. -/
def withHost (s : State) (p : List HostStmt) : State :=
  { s with sched := [.host], host := { s.host with prog := p } }

/-- A state with a command word in PEND and the engine's turn scheduled. -/
def pending (s : State) (w : Word32) : State := { s with pend := some w, sched := [.engine] }

/-- The vectors of 40_lane_vector.md. -/
def vecA : Block := lanes 0x89abcdef#32 0x01234567#32 0xfedcba98#32 0x76543210#32
def vecB : Block := lanes 0xffffffff#32 0x80000000#32 0x00000001#32 0x12345678#32

/-- A state with A in register a and B in register b. -/
def withAB : State := setVReg (setVReg State.reset .a vecA) .b vecB

/-! ## Well-formedness: an ill-formed term for each check -/

theorem test_wf_vsrl32 : Instr.wf (.vsrl32 .x (.reg .a) 31) = true ∧ Instr.wf (.vsrl32 .x (.reg .a) 32) = false := by decide
theorem test_wf_vsll32 : Instr.wf (.vsll32 .x (.reg .a) 31) = true ∧ Instr.wf (.vsll32 .x (.reg .a) 32) = false := by decide
theorem test_wf_vsrlb : Instr.wf (.vsrlb .x (.reg .a) 15) = true ∧ Instr.wf (.vsrlb .x (.reg .a) 16) = false := by decide
theorem test_wf_vsllb : Instr.wf (.vsllb .x (.reg .a) 15) = true ∧ Instr.wf (.vsllb .x (.reg .a) 16) = false := by decide

/-- The row of MEXP 607 with some fields changed. -/
def changed (f : ParameterSet → ParameterSet) : ParameterSet := f (defaultParams .m607)

/-- 00_scope.md R10: one field out of its range at a time. -/
theorem test_wf_params :
    (defaultParams .m607).wf 5 ∧ ¬ (changed fun p => { p with pos1 := 0 }).wf 5 ∧
      (changed fun p => { p with pos1 := 4 }).wf 5 ∧
      ¬ (changed fun p => { p with pos1 := 5 }).wf 5 ∧
      ¬ (changed fun p => { p with sl1 := 32 }).wf 5 ∧
      ¬ (changed fun p => { p with sr1 := 32 }).wf 5 ∧
      ¬ (changed fun p => { p with sl2 := 16 }).wf 5 ∧
      ¬ (changed fun p => { p with sr2 := 16 }).wf 5 ∧
      ¬ (changed fun p => { p with parity1 := 0, parity4 := 0 }).wf 5 :=
  ⟨by decide, by decide, by decide, by decide, by decide, by decide, by decide, by decide, by decide⟩

theorem test_wf_base : ¬ (Config.mk .m607 (defaultParams .m607) 2).wf := by decide

/-- 60_exceptions.md R209. -/
theorem test_elaborate :
    elaborate 608 (defaultParams .m607) 0 = none ∧
      elaborate 607 { defaultParams .m607 with pos1 := 5 } 0 = none ∧
      elaborate 607 (defaultParams .m607) 64 = some ⟨.m607, defaultParams .m607, 64⟩ := by decide

/-! ## Decoding: words written out from 30_encoding.md R82, R83, R89 -/

theorem test_decode_commands :
    decode 0b00000000000000000000000000000001#32 = .command .seed ∧
      decode 0b00000000000000000000000000000010#32 = .command .next32 ∧
      decode 0b00000000000000000000000000000011#32 = .command .next64 := by decide

theorem test_decode_illegal :
    decode 0x00000000#32 = .illegal (.unassignedOpc 0x00#8) ∧
      decode 0x00000004#32 = .illegal (.unassignedOpc 0x04#8) ∧
      decode 0x000000ff#32 = .illegal (.unassignedOpc 0xff#8) ∧
      decode 0x00000101#32 = .illegal (.reservedNonzero 0x000001#24) ∧
      decode 0x00000104#32 = .illegal (.reservedNonzero 0x000001#24) ∧
      decode 0x80000001#32 = .illegal (.reservedNonzero 0x800000#24) := by decide

theorem test_decodeTableWord :
    decodeTableWord 32 1 = some .seed ∧ decodeTableWord 32 2 = some .next32 ∧
      decodeTableWord 32 3 = some .next64 ∧ decodeTableWord 32 0 = none ∧ decodeTableWord 64 (2 ^ 32 + 1) = none := by
  decide

/-! ## Lane-vector operations: 95_test_vectors.md section 2 -/

theorem test_vand : (after (.vand .z (.reg .a) (.reg .b)) withAB).dp.z =
    lanes 0x89abcdef#32 0x00000000#32 0x00000000#32 0x12141210#32 := by decide

/-- MASK of MEXP 19937. -/
theorem test_vand_mask : (after (.vand .z (.reg .a) .mask) (setVReg (fresh .m19937) .a vecA)).dp.z =
    lanes 0x89abcdef#32 0x01224167#32 0xbed8ba98#32 0x36543210#32 := by decide

theorem test_vxor : (after (.vxor .a (.reg .a) (.reg .b)) withAB).dp.a =
    lanes 0x76543210#32 0x81234567#32 0xfedcba99#32 0x64606468#32 := by decide

theorem test_vsrl32 :
    (after (.vsrl32 .y (.reg .a) 11) withAB).dp.y = lanes 0x00113579#32 0x00002468#32 0x001fdb97#32 0x000eca86#32 ∧
      (after (.vsrl32 .y (.reg .a) 31) withAB).dp.y = lanes 0x00000001#32 0x00000000#32 0x00000001#32 0x00000000#32 ∧
      (after (.vsrl32 .y (.reg .b) 31) withAB).dp.y = lanes 0x00000001#32 0x00000001#32 0x00000000#32 0x00000000#32 ∧
      (after (.vsrl32 .y (.reg .a) 32) withAB).dp.y = 0 := by decide

theorem test_vsll32 :
    (after (.vsll32 .v (.reg .a) 18) withAB).dp.v = lanes 0x37bc0000#32 0x159c0000#32 0xea600000#32 0xc8400000#32 ∧
      (after (.vsll32 .v (.reg .a) 31) withAB).dp.v = lanes 0x80000000#32 0x80000000#32 0x00000000#32 0x00000000#32 ∧
      (after (.vsll32 .v (.reg .b) 1) withAB).dp.v = lanes 0xfffffffe#32 0x00000000#32 0x00000002#32 0x2468acf0#32 ∧
      (after (.vsll32 .v (.reg .a) 32) withAB).dp.v = 0 := by decide

theorem test_vsrlb :
    (after (.vsrlb .z (.reg .a) 1) withAB).dp.z = lanes 0x6789abcd#32 0x98012345#32 0x10fedcba#32 0x00765432#32 ∧
      (after (.vsrlb .z (.reg .a) 3) withAB).dp.z = lanes 0x23456789#32 0xdcba9801#32 0x543210fe#32 0x00000076#32 ∧
      (after (.vsrlb .z (.reg .a) 15) withAB).dp.z = lanes 0x00000076#32 0x00000000#32 0x00000000#32 0x00000000#32 ∧
      (after (.vsrlb .z (.reg .a) 16) withAB).dp.z = 0 := by decide

theorem test_vsllb :
    (after (.vsllb .x (.reg .a) 1) withAB).dp.x = lanes 0xabcdef00#32 0x23456789#32 0xdcba9801#32 0x543210fe#32 ∧
      (after (.vsllb .x (.reg .a) 3) withAB).dp.x = lanes 0xef000000#32 0x6789abcd#32 0x98012345#32 0x10fedcba#32 ∧
      (after (.vsllb .x (.reg .a) 15) withAB).dp.x = lanes 0x00000000#32 0x00000000#32 0x00000000#32 0xef000000#32 ∧
      (after (.vsllb .x (.reg .a) 16) withAB).dp.x = 0 := by decide

/-! ## RECUR and REGEN: 95_test_vectors.md section 3 -/

/-- (a, b, c, d) = (A, B, A, B), MEXP 607. -/
theorem test_recur :
    recurValue (defaultParams .m607) vecA vecB vecA vecB =
      lanes 0xba161d99#32 0xba1476ab#32 0x32ef0923#32 0x4d967ffe#32 ∧
    (after (.recur .v) { State.reset with dp := { Datapath.zero with a := vecA, b := vecB, c := vecA, d := vecB } }).dp.v =
      lanes 0xba161d99#32 0xba1476ab#32 0x32ef0923#32 0x4d967ffe#32 := by decide

/-- The rows that tell the operands and the masked term apart (90_conflicts.md C1), MEXP 19937. -/
theorem test_recur_rows :
    recurValue (defaultParams .m19937) 1 0 0 0 = lanes 0x00000101#32 0 0 0 ∧
      recurValue (defaultParams .m19937) 0 (~~~ 0) 0 0 = lanes 0x001fffef#32 0x001ecb7f#32 0x001affff#32 0x001ffff6#32 ∧
      recurValue (defaultParams .m19937) 0 0 (~~~ 0) 0 = lanes 0xffffffff#32 0xffffffff#32 0xffffffff#32 0x00ffffff#32 ∧
      recurValue (defaultParams .m19937) 0 0 0 (~~~ 0) = lanes 0xfffc0000#32 0xfffc0000#32 0xfffc0000#32 0xfffc0000#32 := by
  decide

/-- Generation 0 and generation 1 of MEXP 607, seed 1234 (42_seed_certify.md R148, 41_recurrence.md R129). -/
def gen01 : Nat → Block
  | 0 => lanes 0x000004d2#32 0xbc5448db#32 0xf22bde9f#32 0xebb44f8f#32
  | 1 => lanes 0xb9894e40#32 0xa9db320f#32 0x2b9eb427#32 0x8516f26a#32
  | 2 => lanes 0x4a9f4b10#32 0xe97bb6be#32 0x0dc53d9b#32 0x10064132#32
  | 3 => lanes 0x8bb97ac6#32 0x6e3c5361#32 0x8e0b44ee#32 0x84c87d2b#32
  | 4 => lanes 0x6633523d#32 0x58e58dbd#32 0x1b8e873e#32 0x004d8989#32
  | 5 => lanes 0x474ff1a3#32 0xaac92dec#32 0xe675cb70#32 0xa08264f7#32
  | 6 => lanes 0xe4d166ed#32 0xbe10b479#32 0xa4029656#32 0xdd42cedd#32
  | 7 => lanes 0x20c716cd#32 0x78c4de73#32 0x5f63e9bf#32 0x45650683#32
  | 8 => lanes 0xd669b15d#32 0x621d2aec#32 0xd6731635#32 0x2c02f6b1#32
  | 9 => lanes 0x47448796#32 0x13193192#32 0xcbcf41f8#32 0xf2086d4d#32
  | _ => 0

theorem test_regen :
    (after .regen seeded).sm = [(0, gen01 5), (1, gen01 6), (2, gen01 7), (3, gen01 8), (4, gen01 9)] ∧
      (after .regen seeded).cursor = 0 ∧ (after .regen seeded).regenCount = 1 := by decide

/-- Generation 2, its first and last words (95_test_vectors.md section 3.3). -/
theorem test_regen_twice :
    (after .regen (after .regen seeded)).sm.w32 0 = some 0xbaaf1b4d#32 ∧
      (after .regen (after .regen seeded)).sm.w32 19 = some 0x783ec911#32 := by decide

/-! ## SEED, EXPAND and CERTIFY: 95_test_vectors.md section 4 -/

theorem test_expand :
    (after (.expand 1234#32) State.reset).sm = [(0, gen01 0), (1, gen01 1), (2, gen01 2), (3, gen01 3), (4, gen01 4)] ∧
      (after (.expand 0xffffffff#32) State.reset).sm.w32 19 = some 0xa307f551#32 := by decide

/-- MEXP 607 seed 8 flips, seed 0 does not (section 4.3). -/
theorem test_certify :
    (after .certify (after (.expand 8#32) State.reset)).sm.block 0 =
        some (lanes 0x00000009#32 0x603c4b29#32 0x2a1a0eca#32 0x2db7efb5#32) ∧
      (after .certify (after (.expand 8#32) State.reset)).dp.inner = 0x0986e014#32 ∧
      (after .certify (after (.expand 0#32) State.reset)).dp.inner = 0x5102c040#32 ∧
      (after .certify (after (.expand 0#32) State.reset)).sm.w32 0 = some 0x00000000#32 := by decide

/-- A flip may clear a bit: MEXP 4253, seed 1 (section 4.3, 90_conflicts.md C4). -/
theorem test_certify_clears :
    certifyBlock (defaultParams .m4253) (lanes 0x00000001#32 0x6c078966#32 0xdd5254a5#32 0xb9523b81#32) =
      lanes 0x00000000#32 0x6c078966#32 0xdd5254a5#32 0xb9523b81#32 ∧
    innerOf (defaultParams .m4253) (lanes 0x00000001#32 0x6c078966#32 0xdd5254a5#32 0xb9523b81#32) =
      0x91539882#32 := by decide

/-- 42_seed_certify.md R140, the example. -/
theorem test_seed :
    seeded.sm.block 0 = some (gen01 0) ∧ seeded.cursor = 20 ∧ statusWord seeded = 0x00000002#32 := by
  decide

/-! ## NEXT32 and NEXT64: 95_test_vectors.md section 5 -/

/-- The first read regenerates; call 21 starts generation 2. -/
theorem test_next32 :
    (after .next32 seeded).dout0 = 0x474ff1a3#32 ∧ (after .next32 seeded).cursor = 1 ∧
      (after .next32 (reading 20)).dout0 = 0xbaaf1b4d#32 ∧ (after .next32 (reading 19)).dout0 = 0xf2086d4d#32 := by
  decide

/-- The word pair crosses a block at cursor 3; at W-2 nothing regenerates; at W-1 the last word is dropped. -/
theorem test_next64 :
    ((after .next64 (reading 3)).dout1, (after .next64 (reading 3)).dout0) = (0xe4d166ed#32, 0xa08264f7#32) ∧
      ((after .next64 (reading 18)).dout1, (after .next64 (reading 18)).dout0) = (0xf2086d4d#32, 0xcbcf41f8#32) ∧
      ((after .next64 (reading 19)).dout1, (after .next64 (reading 19)).dout0) = (0xad52515b#32, 0xbaaf1b4d#32) ∧
      (after .next64 (reading 19)).cursor = 2 := by decide

/-- The canonical reference output of MEXP 19937, seed 1234 (95_test_vectors.md section 1.1), and word 136, the
first that tells the in-place reading apart (section 3.4). -/
theorem test_reference_output :
    (after .next32 (seededWith .m19937 1234#32)).dout0 = 3440181298#32 ∧
      (after .next32 (seededWith .m19937 1234#32)).sm.w32 136 = some 3588354584#32 := by decide +kernel

/-! ## STATUS and errors: 95_test_vectors.md section 7 -/

theorem test_status_pending : statusWord (pending State.reset 0x00000002#32) = 0x00000001#32 := by decide
theorem test_status_unseeded : statusWord (steps 1 (pending State.reset 0x00000002#32)) = 0x00000204#32 := by decide
theorem test_status_illegal :
    statusWord (steps 1 (pending State.reset 0x00000104#32)) = 0x00000104#32 ∧
      statusWord (steps 1 (pending State.reset 0x00000000#32)) = 0x00000104#32 := by decide
theorem test_status_defect :
    statusWord (steps 1 (pending { seeded with cursor := 21 } 0x00000002#32)) = 0x00000f07#32 := by decide
theorem test_status_w1c :
    statusWord (writeStatus { seeded with err := 1#4, sticky := true, overrun := true } 0x0000000c#32) = 0x00000102#32 := by
  decide

/-- A command placed by `withFetchWord` runs in the next step, from reset. -/
theorem test_withFetchWord :
    (steps 1 (State.reset.withFetchWord 32 1)).seeded = true ∧
      (steps 1 (State.reset.withFetchWord 32 2)).err = 0x2#4 ∧
      (steps 1 (State.reset.withFetchWord 32 3)).err = 0x2#4 := by decide

/-! ## Host programs: 95_test_vectors.md sections 6 and 8 -/

/-- The transactions of `seed32 1234` and of `get64` (30_encoding.md R89). -/
theorem test_asm :
    Asm.seed32 0 1234#32 = [.wr ⟨0x04, .w32⟩ 0x000004D2#32, .wr ⟨0x00, .w32⟩ 0x00000001#32, .poll ⟨0x10, .w32⟩] ∧
      Asm.get64 0 .r = [.wr ⟨0x00, .w32⟩ 0x00000003#32, .poll ⟨0x10, .w32⟩, .rd ⟨0x08, .w32⟩ .lo,
        .rd ⟨0x0C, .w32⟩ .hi, .pair .r] := by decide

/-- `fill 5` straight after `seed32 1234`: a3 f1 4f 47 ec, cursor 2. -/
theorem test_fill :
    (steps 7 { seeded with host := { seeded.host with prog := Asm.fill 0 5 100 } }).host.buf =
      [(100, 0xa3#8), (101, 0xf1#8), (102, 0x4f#8), (103, 0x47#8), (104, 0xec#8)] := by decide

/-- Without a FILL_DECOMP a fill is that of U64_THEN_TAIL (00_scope.md R12): 5 bytes take one get64. -/
theorem test_fill_default :
    Asm.fill 0 5 100 = Asm.get64 0 .r ++ [.put 100 5] ∧
      Asm.fill 0 5 100 .u32Only = Asm.get32 0 .r ++ [.put 100 4] ++ (Asm.get32 0 .r ++ [.put 104 1]) := by decide

/-- A value cut to the width of an access (log entry 13). -/
theorem test_width_cut :
    Width.w8.cut 0x0123456789abcdef#64 = 0xef#64 ∧ Width.w16.cut 0x0123456789abcdef#64 = 0xcdef#64 ∧
      Width.w32.cut 0x0123456789abcdef#64 = 0x89abcdef#64 ∧
      Width.w64.cut 0x0123456789abcdef#64 = 0x0123456789abcdef#64 := by decide

/-- 00_scope.md R3, the example. -/
theorem test_identity :
    identityChars ⟨.m19937, defaultParams .m19937, 0⟩ =
      "SFMT-19937:122-18-1-11-1:dfffffef-ddfecb7f-bffaffff-bffffff6".toList := by decide

/-! ## Witnesses: for each statement with hypotheses, concrete values that meet them together, each clause at a
boundary of its range -/

theorem seeded_inv : seeded.Inv where
  config := by decide
  cursorInRange := by decide
  seededFull := by decide
  unseededEmpty := by decide
  running := by decide
  canonical := by decide
  within := by decide
  code := by decide
  varsCanonical := by decide
  bufCanonical := by decide

theorem next_inv : (after .next32 seeded).Inv where
  config := by decide
  cursorInRange := by decide
  seededFull := by decide
  unseededEmpty := by decide
  running := by decide
  canonical := by decide
  within := by decide
  code := by decide
  varsCanonical := by decide
  bufCanonical := by decide

theorem next_seeded : (after .next32 seeded).seeded = true := by decide

theorem reading_inv (c : Nat) (h : c ≤ 20) : (reading c).Inv where
  config := next_inv.config
  cursorInRange := Nat.le_trans h (by decide : 20 ≤ (after .next32 seeded).cfg.nwords)
  seededFull := next_inv.seededFull
  unseededEmpty := fun h => absurd (next_seeded.symm.trans h) (by decide)
  running := next_inv.running
  canonical := next_inv.canonical
  within := next_inv.within
  code := next_inv.code
  varsCanonical := next_inv.varsCanonical
  bufCanonical := next_inv.bufCanonical

theorem reset_inv : State.reset.Inv where
  config := by decide
  cursorInRange := by decide
  seededFull := by decide
  unseededEmpty := by decide
  running := by decide
  canonical := by decide
  within := by decide
  code := by decide
  varsCanonical := by decide
  bufCanonical := by decide

/-- The invariant does not speak of PEND, the schedule or the host's program. -/
theorem inv_of_same {s : State} (h : s.Inv) (p : Option Word32) (l : List Turn) (q : List HostStmt) :
    ({ s with pend := p, sched := l, host := { s.host with prog := q } } : State).Inv :=
  ⟨h.config, h.cursorInRange, h.seededFull, h.unseededEmpty, h.running, h.canonical, h.within, h.code,
    h.varsCanonical, h.bufCanonical⟩

theorem seeded_full : ∀ k, k < seeded.cfg.nblk → ∃ v, seeded.sm.block k = some v :=
  Memory.full_iff.1 (by decide)

/-- MEXP 607 with an all-zero SM, which no run reaches. -/
def zeroState : State := { fresh .m607 with sm := [(0, 0), (1, 0), (2, 0), (3, 0), (4, 0)] }

/-- The halted engine of 95_test_vectors.md section 7. -/
def haltedState : State := { seeded with cursor := 21, halted := true, err := 0xF#4, sticky := true }

theorem witness_ElaborationAcceptsExactlyLegalConfigurations :
    608 ∉ [607, 1279, 2281, 4253, 11213, 19937, 44497, 86243, 132049, 216091] := by decide

theorem witness_DefaultTableRowsAreLegal : 0 % 4 = 0 ∧ 0xfffffffc % 4 = 0 := by decide

theorem witness_DecoderIsTheOpcodeMap :
    (0x00000000#32 ≠ 0x00000001#32 ∧ 0x00000000#32 ≠ 0x00000002#32 ∧ 0x00000000#32 ≠ 0x00000003#32) ∧
      (0x00000004#32 ≠ 0x00000001#32 ∧ 0x00000004#32 ≠ 0x00000002#32 ∧ 0x00000004#32 ≠ 0x00000003#32) := by decide

theorem witness_LaneLogicIsBitwise : 0 < 4 ∧ 3 < 4 := by decide

theorem witness_LaneShiftsStayInTheirLane : (3 < 4 ∧ 31 < 32) ∧ 32 ≤ 32 := by decide

theorem witness_ByteShiftsMoveWholeBytes : 15 < 16 ∧ 16 ≤ 16 := by decide

theorem witness_LaneOperationsWriteOnlyTheirResult : VReg.x ≠ VReg.a := by decide

theorem witness_RecurLaneByLane : 0 < 4 ∧ 3 < 4 := by decide

theorem witness_RecurCompletesAndRunsItsMicroOperations :
    VReg.r1 ≠ VReg.r2 ∧ VReg.r1 ≠ VReg.x ∧ VReg.r1 ≠ VReg.y ∧ VReg.r1 ≠ VReg.z ∧ VReg.r1 ≠ VReg.v := by decide

theorem witness_RegenIsTheInPlaceLoop :
    seeded.cfg.wf ∧ (∀ k, k < seeded.cfg.nblk → ∃ v, seeded.sm.block k = some v) ∧
      0 < seeded.cfg.nblk ∧ 4 < seeded.cfg.nblk := ⟨by decide, seeded_full, by decide, by decide⟩

theorem witness_RegenYieldsTheNextGeneration :
    seeded.cfg.wf ∧ (∀ k, k < seeded.cfg.nblk → seeded.sm.block k = some (gen01 k)) ∧
      (∀ k, k < seeded.cfg.nblk → gen01 (k + seeded.cfg.nblk) = recurValue seeded.cfg.params (gen01 k)
        (gen01 (k + seeded.cfg.params.pos1)) (gen01 (k + seeded.cfg.nblk - 2)) (gen01 (k + seeded.cfg.nblk - 1))) ∧
      seeded.cfg.nblk ≤ 5 := by decide

theorem witness_RegenKeepsTheZeroState :
    zeroState.cfg.wf ∧ ∀ k, k < zeroState.cfg.nblk → zeroState.sm.block k = some 0 := by decide

theorem witness_UnsetBlocksStopTheOperationsThatReadThem :
    State.reset.cfg.wf ∧ (∃ k, k < State.reset.cfg.nblk ∧ State.reset.sm.block k = none) ∧
      State.reset.sm.block 0 = none ∧
      ∃ k, k < zeroState.cfg.nblk ∧ ({ zeroState with sm := [(0, 0), (1, 0), (2, 0), (3, 0)] } : State).sm.block k = none :=
  ⟨by decide, ⟨0, by decide, rfl⟩, rfl, 4, by decide, rfl⟩

theorem witness_OnlyExhaustedReadsRegenerate :
    (∃ t, exec .seed State.reset = .next t) ∧
      ((∃ t, exec .next32 (reading 19) = .next t) ∧ (∃ t, exec .next32 (reading 20) = .next t) ∧
        ∃ t, exec .next32 State.reset = .next t) ∧
      ((∃ t, exec .next64 (reading 18) = .next t) ∧ (∃ t, exec .next64 (reading 19) = .next t) ∧
        ∃ t, exec .next64 State.reset = .next t) :=
  ⟨exists_of_isNext (by decide),
    ⟨exists_of_isNext (by decide), exists_of_isNext (by decide), exists_of_isNext (by decide)⟩,
    ⟨exists_of_isNext (by decide), exists_of_isNext (by decide), exists_of_isNext (by decide)⟩⟩

theorem witness_ExpandFillsEveryWord :
    (1 ≤ 1 ∧ 19 < State.reset.cfg.nwords) ∧ State.reset.cfg.nblk ≤ 5 := by decide

theorem witness_SeedChainRunsThroughLaneThree :
    ∃ t v v', exec (.expand 1234#32) State.reset = .next t ∧ 0 < State.reset.cfg.nblk ∧
      t.sm.block 0 = some v ∧ 4 < State.reset.cfg.nblk ∧ t.sm.block 4 = some v' ∧ 3 + 1 < State.reset.cfg.nblk :=
  ⟨_, gen01 0, gen01 4, rfl, by decide, by decide, by decide, by decide, by decide⟩

theorem witness_CertifyFlipsTheLowestParityBitOnEvenParity :
    (∃ v, (after (.expand 8#32) State.reset).sm.block 0 = some v ∧ popcount (innerOf (defaultParams .m607) v) % 2 = 0) ∧
      (∃ v, (after (.expand 0#32) State.reset).sm.block 0 = some v ∧
        popcount (innerOf (defaultParams .m607) v) % 2 = 1) ∧
      (after (.expand 8#32) State.reset).cfg.wf :=
  ⟨⟨lanes 0x00000008#32 0x603c4b29#32 0x2a1a0eca#32 0x2db7efb5#32, by decide, by decide⟩,
    ⟨lanes 0x00000000#32 0x00000001#32 0x6c078967#32 0x714acb41#32, by decide, by decide⟩, by decide⟩

theorem witness_CertifiedParityIsOdd :
    (after (.expand 8#32) State.reset).cfg.wf ∧ (after (.expand 8#32) State.reset).sm.block 0 =
      some (lanes 0x00000008#32 0x603c4b29#32 0x2a1a0eca#32 0x2db7efb5#32) := by decide

theorem witness_DefaultTablesFlipBitZero : popcount (innerOf (defaultParams .m216091) 0) % 2 = 0 := by decide

theorem witness_SeedExpandsThenCertifies : State.reset.cfg.nblk ≤ 5 := by decide

theorem witness_SeedIsAFunctionOfTheSeed :
    (reading 7).cfg.mexp = ({ fresh .m607 with din := 1234#32 } : State).cfg.mexp ∧
      (reading 7).cfg.params = ({ fresh .m607 with din := 1234#32 } : State).cfg.params ∧
      (reading 7).din = ({ fresh .m607 with din := 1234#32 } : State).din ∧ 4 < (reading 7).cfg.nblk := by decide

theorem witness_FirstReadAfterSeedRegenerates :
    State.reset.cfg.wf ∧ ∃ t, exec .seed State.reset = .next t := ⟨by decide, exists_of_isNext (by decide)⟩

/-- Unseeded; the last word; an exhausted generation. -/
theorem witness_Next32PopsOneWord :
    State.reset.seeded = false ∧
      (∃ r, (reading 19).seeded = true ∧ (reading 19).cursor < (reading 19).cfg.nwords ∧
        (reading 19).sm.w32 (reading 19).cursor = some r) ∧
      ∃ u r, seeded.seeded = true ∧ seeded.cursor ≥ seeded.cfg.nwords ∧ exec .regen seeded = .next u ∧
        u.sm.w32 0 = some r :=
  ⟨rfl, ⟨0xf2086d4d#32, by decide, by decide, by decide⟩,
    ⟨_, 0x474ff1a3#32, by decide, by decide, rfl, by decide⟩⟩

/-- Unseeded; the last pair; one word left; an exhausted generation. -/
theorem witness_Next64PopsTwoWords :
    State.reset.seeded = false ∧
      (∃ lo hi, (reading 18).seeded = true ∧ (reading 18).cursor < (reading 18).cfg.nwords - 1 ∧
        (reading 18).sm.w32 (reading 18).cursor = some lo ∧ (reading 18).sm.w32 ((reading 18).cursor + 1) = some hi) ∧
      (∃ u lo hi, (reading 19).seeded = true ∧ (reading 19).cursor ≥ (reading 19).cfg.nwords - 1 ∧
        exec .regen (reading 19) = .next u ∧ u.sm.w32 0 = some lo ∧ u.sm.w32 1 = some hi) ∧
      ∃ u lo hi, seeded.seeded = true ∧ seeded.cursor ≥ seeded.cfg.nwords - 1 ∧ exec .regen seeded = .next u ∧
        u.sm.w32 0 = some lo ∧ u.sm.w32 1 = some hi :=
  ⟨rfl, ⟨0xcbcf41f8#32, 0xf2086d4d#32, by decide, by decide, by decide, by decide⟩,
    ⟨_, 0xbaaf1b4d#32, 0xad52515b#32, by decide, by decide, rfl, by decide, by decide⟩,
    ⟨_, 0x474ff1a3#32, 0xaac92dec#32, by decide, by decide, rfl, by decide, by decide⟩⟩

theorem witness_ReadsCompleteOnASeededEngine :
    seeded.cfg.wf ∧ seeded.seeded = true ∧ ∀ k, k < seeded.cfg.nblk → ∃ v, seeded.sm.block k = some v :=
  ⟨by decide, by decide, seeded_full⟩

theorem witness_Next64HalvesComeFromOneGeneration :
    ((reading 3).cfg.wf ∧ (reading 3).seeded = true ∧ ∃ t, exec .next64 (reading 3) = .next t) ∧
      ((reading 19).cfg.wf ∧ (reading 19).seeded = true ∧ ∃ t, exec .next64 (reading 19) = .next t) :=
  ⟨⟨by decide, by decide, exists_of_isNext (by decide)⟩, ⟨by decide, by decide, exists_of_isNext (by decide)⟩⟩

theorem witness_ExhaustionTriggersExactlyOneRegeneration :
    seeded.Inv ∧ seeded.seeded = true ∧ seeded.cursor = seeded.cfg.nwords ∧ 1 ≤ 1 ∧ 20 ≤ seeded.cfg.nwords :=
  ⟨seeded_inv, by decide, by decide, by decide, by decide⟩

/-- A pair across two blocks. -/
theorem witness_WordViewsAreBytesOfTheState :
    seeded.sm.w32 3 = some 0xebb44f8f#32 ∧ seeded.sm.w32 (3 + 1) = some 0xb9894e40#32 := by decide

theorem witness_StepRunsTheDecodedCommand :
    ((pending seeded 2#32).pend = some 2#32 ∧ (pending seeded 2#32).halted = false ∧
      (pending seeded 2#32).cursor ≤ (pending seeded 2#32).cfg.nwords ∧ decode 2#32 = .command .next32 ∧
      (pending seeded 2#32).sched = .engine :: []) ∧
      ({ pending seeded 2#32 with sched := [] } : State).sched = [] := by decide

theorem witness_PlacedCommandRunsNext :
    decodeTableWord 32 1 = some .seed ∧ decodeTableWord 32 3 = some .next64 := by decide

theorem pending_reset (w : Word32) :
    (pending State.reset w).pend = some w ∧ (pending State.reset w).halted = false ∧
      (pending State.reset w).cursor ≤ (pending State.reset w).cfg.nwords ∧
      (pending State.reset w).seeded = false :=
  ⟨rfl, rfl, Nat.le_refl _, rfl⟩

/-- The engine's turn comes next after a command word, scheduled (with turns after it) and by default. -/
theorem pending_turn (s : State) (w : Word32) (h : s.halted = false) :
    TurnNext .engine { pending s w with sched := [.engine, .host, .reset] }
        { pending s w with sched := [.host, .reset] } ∧
      TurnNext .engine { pending s w with sched := [] } { pending s w with sched := [] } :=
  ⟨.inl ⟨_, rfl, rfl⟩, .inr ⟨rfl, by simp [engineReady, pending, h], rfl⟩⟩

/-- The host's turn comes next, scheduled (with turns after it), and by default where the engine has no step. -/
theorem host_turn (s : State) (p : List HostStmt) :
    TurnNext .host { withHost s p with sched := [.host, .engine, .reset] }
        { withHost s p with sched := [.engine, .reset] } ∧
      (s.pend = none → TurnNext .host { withHost s p with sched := [] } { withHost s p with sched := [] }) :=
  ⟨.inl ⟨_, rfl, rfl⟩, fun h => .inr ⟨rfl, by simp [engineReady, withHost, h], rfl⟩⟩

/-- Scheduled and by default (`pending_turn`). -/
theorem witness_IllegalWordOnlyReports :
    ∀ l ∈ [[Turn.engine, .host, .reset], []],
      ({ pending State.reset 4#32 with sched := l } : State).pend = some 4#32 ∧
      ({ pending State.reset 4#32 with sched := l } : State).halted = false ∧
      ({ pending State.reset 4#32 with sched := l } : State).cursor ≤ State.reset.cfg.nwords ∧
      4#32 ≠ 0x00000001#32 ∧ 4#32 ≠ 0x00000002#32 ∧ 4#32 ≠ 0x00000003#32 ∧
      ∃ u, TurnNext .engine { pending State.reset 4#32 with sched := l } u := by
  have h := pending_turn State.reset 4#32 rfl
  simp only [List.forall_mem_cons, List.not_mem_nil, false_imp_iff, implies_true, and_true]
  exact ⟨⟨rfl, rfl, Nat.le_refl _, by decide, by decide, by decide, _, h.1⟩,
    rfl, rfl, Nat.le_refl _, by decide, by decide, by decide, _, h.2⟩

/-- For each of the three command words, scheduled and by default. -/
theorem witness_ReadBeforeSeedOnlyReports :
    ∀ w ∈ [0x00000001#32, 0x00000002#32, 0x00000003#32],
      ((pending State.reset w).pend = some w ∧ (pending State.reset w).halted = false ∧
        (pending State.reset w).cursor ≤ (pending State.reset w).cfg.nwords ∧
        (pending State.reset w).seeded = false) ∧
      (∃ u, TurnNext .engine { pending State.reset w with sched := [.engine, .host, .reset] } u) ∧
      ∃ u, TurnNext .engine { pending State.reset w with sched := [] } u :=
  fun w _ => ⟨pending_reset w, ⟨_, (pending_turn State.reset w rfl).1⟩, _, (pending_turn State.reset w rfl).2⟩

/-- Scheduled and by default. -/
theorem witness_DefectHaltsTheEngine :
    ((pending { seeded with cursor := 21 } 2#32).pend = some 2#32 ∧
      (pending { seeded with cursor := 21 } 2#32).halted = false ∧
      (pending { seeded with cursor := 21 } 2#32).cursor > (pending { seeded with cursor := 21 } 2#32).cfg.nwords) ∧
    (∃ u, TurnNext .engine { pending { seeded with cursor := 21 } 2#32 with sched := [.engine, .host, .reset] } u) ∧
    ∃ u, TurnNext .engine { pending { seeded with cursor := 21 } 2#32 with sched := [] } u :=
  have h := pending_turn { seeded with cursor := 21 } 2#32 (by decide)
  ⟨by decide, ⟨_, h.1⟩, _, h.2⟩

theorem witness_HaltedEngineIsStuckUntilReset :
    haltedState.halted = true ∧
      ((∃ t, step (pending haltedState 2#32) = .next t) ∧ (pending haltedState 2#32).sched.head? ≠ some .reset) ∧
      ({ haltedState with sched := [.reset] } : State).sched = .reset :: [] :=
  ⟨by decide, ⟨exists_of_isNext (by decide), by decide⟩, rfl⟩

/-- A command that ends with an error and one that does not. -/
theorem witness_ErrorsArePrecise :
    ((pending State.reset 2#32).pend = some 2#32 ∧ (pending State.reset 2#32).halted = false ∧
      (pending State.reset 2#32).cursor ≤ (pending State.reset 2#32).cfg.nwords ∧
      ∃ t, engineTurn (pending State.reset 2#32) = .next t) ∧
    ((pending State.reset 1#32).pend = some 1#32 ∧ (pending State.reset 1#32).halted = false ∧
      (pending State.reset 1#32).cursor ≤ (pending State.reset 1#32).cfg.nwords ∧
      ∃ t, engineTurn (pending State.reset 1#32) = .next t) :=
  ⟨⟨rfl, rfl, Nat.le_refl _, exists_of_isNext (by decide)⟩,
    ⟨rfl, rfl, Nat.le_refl _, exists_of_isNext (by decide)⟩⟩

theorem witness_ErrorPriority :
    (pending haltedState 2#32).cursor > (pending haltedState 2#32).cfg.nwords ∧
      ((∃ y, decode 0x00000104#32 = .illegal y) ∧ (pending State.reset 0x00000104#32).halted = false) ∧
      (decode 3#32 = .command .next64 ∧ (pending State.reset 3#32).seeded = false) ∧
      decode 1#32 = .command .seed ∧
      (pending seeded 2#32).Inv ∧ (pending seeded 2#32).seeded = true ∧ decode 2#32 = .command .next32 :=
  ⟨by decide, ⟨⟨.reservedNonzero 1, by decide⟩, rfl⟩, ⟨by decide, rfl⟩, by decide, inv_of_same seeded_inv _ _ _,
    by decide, by decide⟩

theorem witness_EngineWithoutAStepChangesNothing :
    State.reset.pend = none ∧ (pending haltedState 2#32).halted = true := by decide

/-- An idle engine with the turn scheduled and by default, one with a command in flight (`busy_both_ways`), and a
halted one, whose default turn is the host's. -/
theorem witness_CmdWriteIssuesOrIsDropped :
    (∀ s ∈ [State.reset, pending State.reset 2#32, haltedState],
      (withHost s [.wr ⟨0, .w32⟩ 3#32]).host.prog = .wr ⟨(withHost s [.wr ⟨0, .w32⟩ 3#32]).cfg.base, .w32⟩ 3#32 :: [] ∧
      ∃ u, TurnNext .host { withHost s [.wr ⟨0, .w32⟩ 3#32] with sched := [.host, .engine, .reset] } u) ∧
    ∀ s ∈ [State.reset, haltedState],
      ∃ u, TurnNext .host { withHost s [.wr ⟨0, .w32⟩ 3#32] with sched := [] } u := by
  simp only [List.forall_mem_cons, List.not_mem_nil, false_imp_iff, implies_true, and_true]
  exact ⟨⟨⟨rfl, _, (host_turn _ _).1⟩, ⟨rfl, _, (host_turn _ _).1⟩, rfl, _, (host_turn _ _).1⟩,
    ⟨_, (host_turn _ _).2 rfl⟩, _, (host_turn _ _).2 rfl⟩

theorem busy_both_ways :
    busy State.reset = false ∧ busy (pending State.reset 2#32) = true ∧ busy haltedState = true := by decide

/-- An idle engine with the turn scheduled and by default, one with a command in flight (`busy_both_ways`), and a
halted one, whose default turn is the host's. -/
theorem witness_DinWriteStoresOrIsDropped :
    (∀ s ∈ [State.reset, pending State.reset 2#32, haltedState],
      (withHost s [.wr ⟨4, .w32⟩ 99#32]).host.prog = .wr ⟨(withHost s [.wr ⟨4, .w32⟩ 99#32]).cfg.base + 0x04, .w32⟩ 99#32 :: [] ∧
      ∃ u, TurnNext .host { withHost s [.wr ⟨4, .w32⟩ 99#32] with sched := [.host, .engine, .reset] } u) ∧
    ∀ s ∈ [State.reset, haltedState],
      ∃ u, TurnNext .host { withHost s [.wr ⟨4, .w32⟩ 99#32] with sched := [] } u := by
  simp only [List.forall_mem_cons, List.not_mem_nil, false_imp_iff, implies_true, and_true]
  exact ⟨⟨⟨rfl, _, (host_turn _ _).1⟩, ⟨rfl, _, (host_turn _ _).1⟩, rfl, _, (host_turn _ _).1⟩,
    ⟨_, (host_turn _ _).2 rfl⟩, _, (host_turn _ _).2 rfl⟩

theorem witness_ReadOnlyRegisters : seeded.cursor ≤ seeded.cfg.nwords ∧ (reading 0).cursor ≤ (reading 0).cfg.nwords := by
  decide

/-- The first and the last reserved offset; the last word below the window and the first byte above it. -/
theorem witness_ReservedAndOutsideAccessesDoNothing :
    (∀ off ∈ [0x24, 0x3C], 0x24 ≤ off ∧ off < 0x40 ∧ off % 4 = 0) ∧
      (Access.mk 0x60 .w32).addr + (Access.mk 0x60 .w32).width.bytes ≤ 0x64 ∧
      0x64 + 0x40 ≤ (Access.mk 0xa4 .w8).addr := by decide

/-- A byte, a misaligned word, and words that straddle the upper and the lower end of the window. -/
theorem malformed_accesses :
    MalformedAccess 0 ⟨0, .w8⟩ ∧ MalformedAccess 0 ⟨2, .w32⟩ ∧ MalformedAccess 0 ⟨62, .w32⟩ ∧
      MalformedAccess 64 ⟨61, .w32⟩ ∧ MalformedAccess 0 ⟨56, .w64⟩ := by
  simp only [← target_malformed]
  decide

/-- The first and the last aligned word; malformed ones (`malformed_accesses`); the host's turn, scheduled and by
default, at a statement that makes one. -/
theorem witness_OnlyAlignedWordAccessesAreModelled :
    (∃ k, k < 16 ∧ Access.mk 0 .w32 = ⟨State.reset.cfg.base + 4 * k, .w32⟩) ∧
      (∃ k, k < 16 ∧ Access.mk 60 .w32 = ⟨State.reset.cfg.base + 4 * k, .w32⟩) ∧
      MalformedAccess State.reset.cfg.base ⟨62, .w32⟩ ∧
      ∀ a ∈ [Access.mk 60 .w32, Access.mk 62 .w32],
        ((withHost State.reset [.rd a .lo]).host.prog = .rd a .lo :: [] ∧ accessOf (.rd a .lo) = some a) ∧
        (∃ u, TurnNext .host { withHost State.reset [.rd a .lo] with sched := [.host, .engine, .reset] } u) ∧
        ∃ u, TurnNext .host { withHost State.reset [.rd a .lo] with sched := [] } u :=
  ⟨⟨0, by decide, rfl⟩, ⟨15, by decide, rfl⟩, malformed_accesses.2.2.1, fun a _ =>
    ⟨⟨rfl, rfl⟩, ⟨_, (host_turn _ _).1⟩, _, (host_turn _ _).2 rfl⟩⟩

theorem witness_HostCannotDisturbACommandInFlight :
    (∃ t, hostTurn (withHost (pending seeded 2#32) [.wr ⟨4, .w32⟩ 99#32]) = .next t) ∧
      busy (withHost (pending seeded 2#32) [.wr ⟨4, .w32⟩ 99#32]) = true :=
  ⟨exists_of_isNext (by decide), by decide⟩

theorem witness_ResetIsOneEvent :
    ({ pending seeded 2#32 with sched := [.reset] } : State).sched = .reset :: [] := rfl

theorem witness_ResetStateMeetsTheInvariant :
    ∀ m ∈ [Mexp.m607, Mexp.m216091], (Config.mk m (defaultParams m) 0).wf := by decide

/-- An engine turn, a host turn and a reset. -/
theorem witness_EveryStepKeepsTheInvariant :
    (pending seeded 2#32).Inv ∧ (∃ t, step (pending seeded 2#32) = .next t) ∧
      (withHost State.reset [.wr ⟨0, .w32⟩ 1#32]).Inv ∧
      (∃ t, step (withHost State.reset [.wr ⟨0, .w32⟩ 1#32]) = .next t) ∧
      ({ seeded with sched := [.reset] } : State).Inv ∧ ∃ t, step { seeded with sched := [.reset] } = .next t :=
  ⟨inv_of_same seeded_inv _ _ _, exists_of_isNext (by decide), inv_of_same reset_inv _ _ _,
    exists_of_isNext (by decide), inv_of_same seeded_inv none _ [], exists_of_isNext (by decide)⟩

/-- An engine turn; a well-formed host access; a malformed one. -/
theorem witness_InvariantStatesNeverFault :
    ((pending seeded 3#32).Inv ∧ (∃ u, TurnNext .engine (pending seeded 3#32) u) ∧ Turn.engine ≠ .host) ∧
      ((withHost State.reset [.rd ⟨60, .w32⟩ .lo]).Inv ∧ ¬ MalformedNext (withHost State.reset [.rd ⟨60, .w32⟩ .lo])) ∧
      ((withHost State.reset [.rd ⟨62, .w32⟩ .lo]).Inv ∧ MalformedNext (withHost State.reset [.rd ⟨62, .w32⟩ .lo])) := by
  refine ⟨⟨inv_of_same seeded_inv _ _ _, ⟨_, .inl ⟨_, rfl, rfl⟩⟩, by decide⟩,
    ⟨inv_of_same reset_inv none _ _, ?_⟩, inv_of_same reset_inv none _ _, ?_⟩
  · rintro ⟨u, p, rest, a, -, hp, ha, hm⟩
    cases hp
    cases ha
    exact absurd (target_malformed.2 hm) (by decide)
  · exact ⟨_, _, _, _, .inl ⟨_, rfl, rfl⟩, rfl, rfl, malformed_accesses.2.2.1⟩

theorem witness_SeededIsClearedOnlyByReset :
    (∃ t, step (pending seeded 0#32) = .next t) ∧ (pending seeded 0#32).seeded = true ∧
      (pending seeded 0#32).sched.head? ≠ some .reset ∧ State.reset.seeded = false :=
  ⟨exists_of_isNext (by decide), by decide, by decide, rfl⟩

theorem witness_ConfigurationNeverChanges : ∃ t, step (pending State.reset 1#32) = .next t :=
  exists_of_isNext (by decide)

/-- Two polls scheduled before the engine's turn; a wait with a read after it, and one with nothing after it. -/
theorem witness_EveryWaitEnds :
    ∀ rest ∈ [Asm.rd 0 .dout0 .r, []],
      ({ seeded with pend := some 2#32, sched := [.host, .host]
                     host := { seeded.host with prog := Asm.wait 0 ++ rest } } : State).Inv ∧
      ({ seeded with pend := some 2#32, sched := [.host, .host]
                     host := { seeded.host with prog := Asm.wait 0 ++ rest } } : State).host.prog =
        Asm.wait seeded.cfg.base ++ rest :=
  fun _ _ => ⟨inv_of_same seeded_inv _ _ _, rfl⟩

theorem witness_CloneGivesTheSameOutputs :
    (∃ c, cloneInto (reading 7) (State.resetOf ⟨.m607, defaultParams .m607, 64⟩) = some c) ∧
      ∀ i ∈ [Instr.next32, .next64, .seed], isHostCommand i = true :=
  ⟨⟨_, rfl⟩, by decide⟩

theorem witness_OutputsDependOnlyOnTheGenerator :
    (reading 7).cfg.mexp = ({ reading 7 with din := 5, dout0 := 9, err := 1, sticky := true } : State).cfg.mexp ∧
      (reading 7).cfg.params = ({ reading 7 with din := 5, dout0 := 9, err := 1, sticky := true } : State).cfg.params ∧
      (reading 7).sm = ({ reading 7 with din := 5, dout0 := 9, err := 1, sticky := true } : State).sm ∧
      (reading 7).cursor = ({ reading 7 with din := 5, dout0 := 9, err := 1, sticky := true } : State).cursor ∧
      (reading 7).seeded = true ∧
      ({ reading 7 with din := 5, dout0 := 9, err := 1, sticky := true } : State).seeded = true ∧
      ∀ i ∈ [Instr.next32, .next64], i = .next32 ∨ i = .next64 :=
  ⟨rfl, rfl, rfl, rfl, by decide, by decide, by decide⟩

/-- A seed32 with a get64 after it. -/
theorem witness_SeedThirtyTwoSeedsTheEngine :
    ({ State.reset with host := { State.reset.host with prog := Asm.seed32 0 1234#32 ++ Asm.get64 0 .r } } : State).Inv ∧
      State.reset.pend = none ∧ State.reset.sched = [] ∧ State.reset.cfg.base = 0 :=
  ⟨inv_of_same reset_inv none [] _, rfl, rfl, rfl⟩

/-- The last pair of a generation; one word left; an exhausted generation. A seed32 follows. -/
theorem witness_GetSixtyFourReturnsOnePair :
    (∀ c ∈ [18, 19, 20],
      ({ reading c with
          host := { (reading c).host with prog := Asm.get64 0 (.var 0) ++ Asm.seed32 0 1#32 } } : State).Inv ∧
      (reading c).seeded = true ∧ (reading c).pend = none ∧ (reading c).sched = [] ∧ (reading c).cfg.base = 0) ∧
    ((reading 18).cursor < (reading 18).cfg.nwords - 1 ∧
      (reading 18).sm.w32 (reading 18).cursor = some 0xcbcf41f8#32 ∧
      (reading 18).sm.w32 ((reading 18).cursor + 1) = some 0xf2086d4d#32) ∧
    (reading 19).cursor ≥ (reading 19).cfg.nwords - 1 ∧ (reading 20).cursor ≥ (reading 20).cfg.nwords - 1 := by
  refine ⟨fun c hc => ⟨inv_of_same (reading_inv c ?_) none [] _, ?_, ?_, ?_, ?_⟩, ?_, ?_, ?_⟩
  all_goals first
    | decide
    | exact (by decide : ∀ c ∈ [18, 19, 20], c ≤ 20) c hc
    | exact (by decide : ∀ c ∈ [18, 19, 20], (reading c).seeded = true) c hc
    | exact (by decide : ∀ c ∈ [18, 19, 20], (reading c).pend = none) c hc
    | exact (by decide : ∀ c ∈ [18, 19, 20], (reading c).sched = []) c hc
    | exact (by decide : ∀ c ∈ [18, 19, 20], (reading c).cfg.base = 0) c hc

/-- A store of 8 bytes with the host's turn scheduled and by default; the bytes at and just outside its ends. -/
theorem witness_FillStoresLittleEndianBytes :
    ((withHost State.reset [.put 100 8]).host.prog = .put 100 8 :: [] ∧
      (∃ u, TurnNext .host { withHost State.reset [.put 100 8] with sched := [.host, .engine, .reset] } u) ∧
      ∃ u, TurnNext .host { withHost State.reset [.put 100 8] with sched := [] } u) ∧
    7 < 8 ∧ (99 < 100 ∨ 100 + 8 ≤ 99) ∧ (108 < 100 ∨ 100 + 8 ≤ 108) :=
  ⟨⟨rfl, ⟨_, (host_turn _ _).1⟩, _, (host_turn _ _).2 rfl⟩, by decide, by decide, by decide⟩

end Sys2Proof.Tests
end

section
/-! The default table of 00_scope.md R11: its derived sizes (R9) and its legal ranges (R10). -/

namespace Sys2Proof.Machine

/-- The N column of the table of 00_scope.md R11. -/
def tableBlocks : Mexp → Nat
  | .m607 => 5
  | .m1279 => 10
  | .m2281 => 18
  | .m4253 => 34
  | .m11213 => 88
  | .m19937 => 156
  | .m44497 => 348
  | .m86243 => 674
  | .m132049 => 1032
  | .m216091 => 1689

/-- The block count depends on the size alone, so the column serves every ParameterSet and base. -/
theorem nblk_eq_tableBlocks (c : Config) : c.nblk = tableBlocks c.mexp := by
  obtain ⟨m, p, base⟩ := c
  cases m <;> simp [Config.nblk, Mexp.toNat, tableBlocks]

theorem nwords_eq_tableBlocks (c : Config) : c.nwords = 4 * tableBlocks c.mexp :=
  congrArg (4 * ·) (nblk_eq_tableBlocks c)

theorem defaultParams_wf_tableBlocks (m : Mexp) : (defaultParams m).wf (tableBlocks m) := by
  cases m <;> decide

/-- The default ParameterSet builds an instance of every size at every aligned base. -/
theorem defaultConfig_wf (m : Mexp) {base : Nat} (hbase : base % 4 = 0) :
    (Config.mk m (defaultParams m) base).wf := by
  have hrow : (defaultParams m).wf (Config.mk m (defaultParams m) base).nblk := by
    rw [nblk_eq_tableBlocks]
    exact defaultParams_wf_tableBlocks m
  exact ⟨hrow, hbase⟩

/-- Settles O2: each row is in range for the N of its size, and W is 4 * N. -/
theorem defaultTableRowsAreLegal : Obligations.DefaultTableRowsAreLegal := by
  intro m base hbase
  refine ⟨defaultConfig_wf m hbase, ?_⟩
  rw [nblk_eq_tableBlocks, nwords_eq_tableBlocks]
  cases m <;> rfl

end Sys2Proof.Machine
end

section
/-! The interface window: which register an aligned access reaches, and which accesses the model refuses
(10_state.md R37, R47, 20_memory.md R68, R70). -/

namespace Sys2Proof.Machine

/-- An aligned 32-bit access within the window reaches its offset. -/
theorem target_window {base off : Nat} (hoff : off < 0x40) (halign : off % 4 = 0) :
    target base ⟨base + off, .w32⟩ = .window off := by
  have hin : ¬ (base + off + Width.w32.bytes ≤ base ∨ base + 0x40 ≤ base + off) := by
    simp only [Width.bytes]; omega
  simp only [target, if_neg hin, Nat.add_sub_cancel_left]
  exact if_pos ⟨trivial, Nat.le_add_right _ _, halign⟩

theorem target_outside {base : Nat} {a : Access}
    (h : a.addr + a.width.bytes ≤ base ∨ base + 0x40 ≤ a.addr) : target base a = .outside := by
  rw [target, if_pos h]

@[simp] theorem regAt_offset (r : Reg) : regAt r.offset = some r := by
  cases r <;> rfl

/-- The offsets from 0x24 on are reserved. -/
theorem regAt_reserved {off : Nat} (h : 0x24 ≤ off) : regAt off = none := by
  unfold regAt
  split
  iterate 9 omega
  rfl

theorem target_register (base : Nat) (r : Reg) : target base ⟨base + r.offset, .w32⟩ = .window r.offset :=
  target_window (by cases r <;> decide) (by cases r <;> decide)

theorem busRead_register (s : State) (r : Reg) :
    busRead s ⟨s.cfg.base + r.offset, .w32⟩ = some ((readReg s r).setWidth 64, s) := by
  simp only [busRead, target_register, regAt_offset]

theorem busWrite_register (s : State) (r : Reg) (w : Word32) :
    busWrite s ⟨s.cfg.base + r.offset, .w32⟩ w = some (writeReg s w r) := by
  simp only [busWrite, target_register, regAt_offset]

theorem busRead_reserved (s : State) {off : Nat} (hlo : 0x24 ≤ off) (hhi : off < 0x40) (halign : off % 4 = 0) :
    busRead s ⟨s.cfg.base + off, .w32⟩ = some (0, s) := by
  simp only [busRead, target_window hhi halign, regAt_reserved hlo]

theorem busWrite_reserved (s : State) (w : Word32) {off : Nat} (hlo : 0x24 ≤ off) (hhi : off < 0x40)
    (halign : off % 4 = 0) : busWrite s ⟨s.cfg.base + off, .w32⟩ w = some s := by
  simp only [busWrite, target_window hhi halign, regAt_reserved hlo]

/-- A value cut to a width is below two to that width. -/
theorem Width.cut_lt (w : Width) (v : Word64) : (w.cut v).toNat < 2 ^ (8 * w.bytes) := by
  rw [Width.cut, BitVec.toNat_setWidth]
  exact Nat.lt_of_le_of_lt (Nat.mod_le _ _) (BitVec.isLt _)

theorem busRead_eq_none_iff {s : State} {a : Access} : busRead s a = none ↔ MalformedAccess s.cfg.base a := by
  rw [← target_malformed, busRead]
  cases htarget : target s.cfg.base a with
  | window off => cases hreg : regAt off <;> simp [hreg]
  | outside => simp
  | malformed => simp

theorem busWrite_eq_none_iff {s : State} {a : Access} {w : Word32} :
    busWrite s a w = none ↔ MalformedAccess s.cfg.base a := by
  rw [← target_malformed, busWrite]
  cases htarget : target s.cfg.base a with
  | window off => cases hreg : regAt off <;> simp [hreg]
  | outside => simp
  | malformed => simp

end Sys2Proof.Machine
end

section
/-! STATUS bit by bit (10_state.md R42), and the size of the values that the read-only registers show. -/

namespace Sys2Proof.Machine

theorem bitAt_getLsbD (b : Bool) {n : Nat} (hn : n < 32) (i : Nat) :
    (bitAt b n).getLsbD i = (b && decide (i = n)) := by
  cases b with
  | false => simp [bitAt]
  | true =>
    rw [bitAt, if_pos rfl, Bool.eq_iff_iff]
    simp only [BitVec.getLsbD_shiftLeft, BitVec.getLsbD_one, Bool.true_and, Bool.and_eq_true, Bool.not_eq_true',
      decide_eq_true_eq, decide_eq_false_iff_not]
    omega

/-- Every bit of STATUS. -/
theorem statusWord_getLsbD (s : State) (i : Nat) :
    (statusWord s).getLsbD i =
      (busy s && decide (i = 0) || s.seeded && decide (i = 1) || s.sticky && decide (i = 2) ||
        s.overrun && decide (i = 3) || decide (i < 32) && (!decide (i < 8) && s.err.getLsbD (i - 8))) := by
  simp only [statusWord, BitVec.getLsbD_or, BitVec.getLsbD_shiftLeft, BitVec.getLsbD_setWidth,
    bitAt_getLsbD _ (show 0 < 32 by decide), bitAt_getLsbD _ (show 1 < 32 by decide),
    bitAt_getLsbD _ (show 2 < 32 by decide), bitAt_getLsbD _ (show 3 < 32 by decide)]
  by_cases hi : i - 8 < 32
  · simp [hi, Bool.and_assoc]
  · simp [hi, show ¬ i < 32 by omega]

theorem statusWord_busy (s : State) : (statusWord s).getLsbD 0 = busy s := by
  rw [statusWord_getLsbD]; simp

theorem statusWord_seeded (s : State) : (statusWord s).getLsbD 1 = s.seeded := by
  rw [statusWord_getLsbD]; simp

theorem statusWord_sticky (s : State) : (statusWord s).getLsbD 2 = s.sticky := by
  rw [statusWord_getLsbD]; simp

theorem statusWord_overrun (s : State) : (statusWord s).getLsbD 3 = s.overrun := by
  rw [statusWord_getLsbD]; simp

/-- From bit 4 on STATUS holds ERR at bits 11:8 and nothing else. -/
theorem statusWord_getLsbD_of_ge (s : State) {i : Nat} (hlo : 4 ≤ i) (hhi : i < 32) :
    (statusWord s).getLsbD i = (!decide (i < 8) && s.err.getLsbD (i - 8)) := by
  rw [statusWord_getLsbD]
  simp [hhi, show i ≠ 0 by omega, show i ≠ 1 by omega, show i ≠ 2 by omega, show i ≠ 3 by omega]

theorem statusWord_err (s : State) : (statusWord s).extractLsb' 8 4 = s.err := by
  apply BitVec.eq_of_getLsbD_eq
  intro i hi
  rw [BitVec.getLsbD_extractLsb', statusWord_getLsbD_of_ge s (by omega) (by omega)]
  simp [hi]

theorem statusWord_reserved_low (s : State) : (statusWord s).extractLsb' 4 4 = 0#4 := by
  apply BitVec.eq_of_getLsbD_eq
  intro i hi
  rw [BitVec.getLsbD_extractLsb', statusWord_getLsbD_of_ge s (by omega) (by omega)]
  simp [show 4 + i < 8 by omega]

theorem statusWord_reserved_high (s : State) : (statusWord s).extractLsb' 12 20 = 0#20 := by
  apply BitVec.eq_of_getLsbD_eq
  intro i hi
  rw [BitVec.getLsbD_extractLsb', statusWord_getLsbD_of_ge s (by omega) (by omega),
    BitVec.getLsbD_of_ge s.err _ (by omega)]
  simp

theorem writeStatus_eq (s : State) (w : Word32) :
    writeStatus s w = { s with
      sticky := s.sticky && !w.getLsbD 2, overrun := s.overrun && !w.getLsbD 3 } := by
  unfold writeStatus
  cases w.getLsbD 2 <;> cases w.getLsbD 3 <;> simp

/-- The bits of a value at and above `k` are 0 where the value is below two to `k`. -/
theorem extractLsb'_eq_zero_of_lt {n : Nat} {v : BitVec n} {k : Nat} (h : v.toNat < 2 ^ k) (m : Nat) :
    v.extractLsb' k m = 0#m := by
  apply BitVec.eq_of_toNat_eq
  rw [BitVec.extractLsb'_toNat, Nat.shiftRight_eq_div_pow, Nat.div_eq_of_lt h, Nat.zero_mod,
    BitVec.toNat_ofNat, Nat.zero_mod]

theorem mexp_lt (m : Mexp) : m.toNat < 2 ^ 18 := by
  cases m <;> decide

theorem nblk_lt (c : Config) : c.nblk < 2 ^ 11 := by
  rw [nblk_eq_tableBlocks]
  cases c.mexp <;> decide

/-- W fits the 16 bits of CURSOR. -/
theorem nwords_lt (c : Config) : c.nwords < 2 ^ 16 := by
  have := nblk_lt c
  unfold Config.nwords
  omega

end Sys2Proof.Machine
end

section
/-! What a turn leaves unchanged in every state, reached or not (10_state.md R34, R54). -/

namespace Sys2Proof.Machine

theorem regenFrom_frame {limit : Nat} {s t : State} (h : regenFrom limit s = some t) :
    t = { s with sm := t.sm, dp := t.dp, cursor := t.cursor, regenCount := t.regenCount } := by
  unfold regenFrom at h
  split at h
  · rw [regenOp_frame h]
  · cases h; rfl

/-- `t` is `s` after a read that went through: besides SM, the working registers, the cursor, REGEN_COUNT and the
results, only ERR and PEND are written (43_extraction.md R160, R161). -/
def CompletesRead (s t : State) : Prop :=
  t = { s with
    sm := t.sm, dp := t.dp, cursor := t.cursor, regenCount := t.regenCount, dout0 := t.dout0, dout1 := t.dout1
    err := ErrCode.ok.bits, pend := none }

theorem completesRead_of_regenFrom {limit : Nat} {s u : State} (h : regenFrom limit s = some u) (c : Nat)
    (r0 r1 : Word32) : CompletesRead s (complete .ok { u with cursor := c, dout0 := r0, dout1 := r1 }) := by
  rw [regenFrom_frame h]
  rfl

theorem pop32_completesRead {s t : State} (h : pop32 s = some t) : CompletesRead s t := by
  unfold pop32 at h
  split at h
  · next u hu =>
    split at h
    · cases h; exact completesRead_of_regenFrom hu _ _ _
    · cases h
  · cases h

theorem pop64_completesRead {s t : State} (h : pop64 s = some t) : CompletesRead s t := by
  unfold pop64 at h
  split at h
  · next u hu =>
    split at h
    · cases h; exact completesRead_of_regenFrom hu _ _ _
    · cases h
  · cases h

/-- From `s` to `t` the configuration stays and `seeded` is not cleared (10_state.md R34, R54). -/
def KeepsSeededAndConfig (s t : State) : Prop := t.cfg = s.cfg ∧ (s.seeded = true → t.seeded = true)

theorem CompletesRead.keeps {s t : State} (h : CompletesRead s t) : KeepsSeededAndConfig s t := by
  rw [h]
  exact ⟨rfl, id⟩

theorem exec_seed_keeps {s t : State} (h : exec .seed s = .next t) : KeepsSeededAndConfig s t := by
  obtain ⟨m, dp, hop, -⟩ := seedOp_spec s
  rw [exec_seed_of_op hop] at h
  cases h
  exact ⟨rfl, fun _ => rfl⟩

theorem exec_next32_keeps {s t : State} (h : exec .next32 s = .next t) : KeepsSeededAndConfig s t := by
  cases hs : s.seeded with
  | true => exact (pop32_completesRead (pop_of_exec_next32 hs h)).keeps
  | false =>
    rw [(exec_next_unseeded hs).1] at h
    cases h
    exact ⟨rfl, id⟩

theorem exec_next64_keeps {s t : State} (h : exec .next64 s = .next t) : KeepsSeededAndConfig s t := by
  cases hs : s.seeded with
  | true => exact (pop64_completesRead (pop_of_exec_next64 hs h)).keeps
  | false =>
    rw [(exec_next_unseeded hs).2] at h
    cases h
    exact ⟨rfl, id⟩

theorem engineTurn_keeps {s t : State} (h : engineTurn s = .next t) : KeepsSeededAndConfig s t := by
  obtain ⟨-, he⟩ | ⟨_, -, -, he⟩ | ⟨_, -, -, -, he⟩ | ⟨_, i, -, -, -, hd, he⟩ | ⟨_, _, -, -, -, -, he⟩ :=
    engineTurn_cases s <;> rw [he] at h
  · cases h; exact ⟨rfl, id⟩
  · cases h; exact ⟨rfl, id⟩
  · cases h; exact ⟨rfl, id⟩
  · obtain ⟨-, rfl⟩ | ⟨-, rfl⟩ | ⟨-, rfl⟩ := decode_command hd
    · exact exec_seed_keeps h
    · exact exec_next32_keeps h
    · exact exec_next64_keeps h
  · cases h; exact ⟨rfl, id⟩

theorem hostTurn_keeps {s t : State} (h : hostTurn s = .next t) : KeepsSeededAndConfig s t := by
  rw [hostTurn_frame h]
  exact ⟨rfl, id⟩

theorem takeTurn_keeps_cfg {turn : Turn} {s t : State} (h : takeTurn turn s = .next t) : t.cfg = s.cfg := by
  cases turn with
  | host => exact (hostTurn_keeps h).1
  | engine => exact (engineTurn_keeps h).1
  | reset => cases h; rfl

theorem takeTurn_keeps_seeded {turn : Turn} {s t : State} (hturn : turn ≠ .reset)
    (h : takeTurn turn s = .next t) : s.seeded = true → t.seeded = true := by
  cases turn with
  | host => exact (hostTurn_keeps h).2
  | engine => exact (engineTurn_keeps h).2
  | reset => exact absurd rfl hturn

/-- Reset is never the default turn, so it comes next only where it is scheduled. -/
theorem turnNext_ne_reset {turn : Turn} {s u : State} (h : TurnNext turn s u)
    (hs : s.sched.head? ≠ some .reset) : turn ≠ .reset := by
  rintro rfl
  rcases h with ⟨rest, hsched, -⟩ | ⟨-, hdefault, -⟩
  · exact hs (by rw [hsched]; rfl)
  · split at hdefault <;> cases hdefault

/-- The step of a host whose next statement writes a register. -/
theorem step_of_registerWrite {s u : State} (hu : TurnNext .host s u) (r : Reg) {w : Word32}
    {rest : List HostStmt} (hprog : s.host.prog = .wr ⟨s.cfg.base + r.offset, .w32⟩ w :: rest) :
    step s = .next (setHost (writeReg u w r) { s.host with prog := rest }) := by
  have hframe := turnNext_frame hu
  have hcfg : u.cfg = s.cfg := by rw [hframe]
  have hhost : u.host = s.host := by rw [hframe]
  have hwrite := busWrite_register u r w
  rw [hcfg] at hwrite
  rw [step_of_turnNext hu]
  simp only [takeTurn, hostTurn, hhost, hprog, hostStmt, hwrite]

theorem busy_of_turnNext {turn : Turn} {s u : State} (hu : TurnNext turn s u) : busy u = busy s := by
  rw [turnNext_frame hu]
  rfl

end Sys2Proof.Machine
end

section
/-! REGEN over a state memory with an unset block (10_state.md R32). -/

namespace Sys2Proof.Machine

/-- A round of REGEN that goes through reads a value in its own block and sets no other. -/
theorem regenRound_some {p : ParameterSet} {n i : Nat} {d : Datapath} {m : Memory} {q : Datapath × Memory}
    (h : regenRound p n i d m = some q) : m.block i ≠ none ∧ ∀ k, k ≠ i → q.2.block k = m.block k := by
  unfold regenRound at h
  split at h
  · next hav _ =>
    cases h
    exact ⟨by simp [hav], fun k hk => Memory.block_setBlock_other _ _ hk⟩
  · cases h

/-- The rounds stop at the latest at an unset block: until its own round no round sets it. -/
theorem regenLoop_of_unset (p : ParameterSet) {n k : Nat} :
    ∀ (cnt i : Nat) (d : Datapath) (m : Memory), i ≤ k → k < i + cnt → m.block k = none →
      regenLoop p n cnt i d m = none
  | 0, i, d, m, hlo, hhi, _ => absurd hhi (by omega)
  | cnt + 1, i, d, m, hlo, hhi, hk => by
    cases hround : regenRound p n i d m with
    | none => simp only [regenLoop, hround]
    | some q =>
      obtain ⟨hset, hother⟩ := regenRound_some hround
      have hne : k ≠ i := by rintro rfl; exact hset hk
      simp only [regenLoop, hround]
      exact regenLoop_of_unset p (k := k) cnt (i + 1) q.1 q.2 (by omega) (by omega) (by rw [hother k hne, hk])

theorem regenOp_of_unset {s : State} {k : Nat} (hk : k < s.cfg.nblk) (hunset : s.sm.block k = none) :
    regenOp s = none := by
  unfold regenOp
  split
  · rw [regenLoop_of_unset s.cfg.params s.cfg.nblk 0 _ _ (Nat.zero_le k) (by rwa [Nat.zero_add]) hunset]
  · rfl

theorem certifyOp_of_unset {s : State} (h : s.sm.block 0 = none) : certifyOp s = none := by
  simp only [certifyOp, h]

/-- Settles O15: each of the two operations reads the unset block on its way. -/
theorem unsetBlocksStopTheOperationsThatReadThem : Obligations.UnsetBlocksStopTheOperationsThatReadThem := by
  rintro s -
  refine ⟨?_, fun h0 => ?_⟩
  · rintro ⟨k, hk, hunset⟩
    simp only [exec, execRegen, regenOp_of_unset hk hunset, orUnset]
  · simp only [exec, execCertify, certifyOp_of_unset h0, orUnset]

end Sys2Proof.Machine
end

section
/-! The invariant of 10_state.md R55, turn by turn. -/

namespace Sys2Proof.Machine

theorem HostState.set_buf (h : HostState) (x : HVar) (v : Word64) : (h.set x v).buf = h.buf := by
  cases x <;> rfl

theorem HostState.wf_vars_set {h : HostState} (hv : Cells.wf h.vars) (x : HVar) (v : Word64) :
    Cells.wf (h.set x v).vars := by
  cases x with
  | var n => exact Cells.wf_write hv n v
  | s | lo | hi | r => exact hv

theorem putBytes_wf (r : Word64) (addr : Nat) {m : Cells Byte} (hm : Cells.wf m) :
    ∀ count, Cells.wf (putBytes r addr count m)
  | 0 => hm
  | count + 1 => Cells.wf_write (putBytes_wf r addr hm count) _ _

/-- The host's own data are in canonical form. -/
def HostState.Canonical (h : HostState) : Prop := Cells.wf h.vars ∧ Cells.wf h.buf

theorem HostState.Canonical.set {h : HostState} (hc : h.Canonical) (x : HVar) (v : Word64) :
    (h.set x v).Canonical :=
  ⟨HostState.wf_vars_set hc.1 x v, by rw [HostState.set_buf]; exact hc.2⟩

/-- Every statement keeps the host's own data canonical. -/
theorem hostStmt_canonical {s t : State} {rest : List HostStmt} {p : HostStmt} (hc : s.host.Canonical)
    (h : hostStmt s rest p = .next t) : t.host.Canonical := by
  cases p with
  | wr a v =>
    simp only [hostStmt] at h
    split at h
    · cases h; exact hc
    · cases h
  | rd a dst =>
    simp only [hostStmt] at h
    split at h
    · cases h; exact HostState.Canonical.set (h := { s.host with prog := rest }) hc dst _
    · cases h
  | poll a =>
    simp only [hostStmt] at h
    split at h
    · next q _ =>
      cases h
      exact HostState.Canonical.set (h := { s.host with prog := if q.1.getLsbD 0 then s.host.prog else rest }) hc .s _
    · cases h
  | pair dst => cases h; exact HostState.Canonical.set (h := { s.host with prog := rest }) hc dst _
  | put addr count => cases h; exact ⟨hc.1, putBytes_wf _ _ hc.2 _⟩
  | failIf => cases h; exact hc

theorem hostTurn_canonical {s t : State} (hc : s.host.Canonical) (h : hostTurn s = .next t) :
    t.host.Canonical := by
  unfold hostTurn at h
  split at h
  · cases h; exact hc
  · exact hostStmt_canonical hc h

/-- A statement is refused where it makes a malformed access (20_memory.md R68). -/
theorem hostStmt_of_malformed {s : State} {rest : List HostStmt} {p : HostStmt} {a : Access}
    (ha : accessOf p = some a) (hm : MalformedAccess s.cfg.base a) :
    hostStmt s rest p = .refused .notAligned32 := by
  cases p with
  | wr b v => cases ha; simp only [hostStmt, busWrite_eq_none_iff.2 hm]
  | rd b dst => cases ha; simp only [hostStmt, busRead_eq_none_iff.2 hm]
  | poll b => cases ha; simp only [hostStmt, busRead_eq_none_iff.2 hm]
  | pair dst => cases ha
  | put addr count => cases ha
  | failIf => cases ha

/-- A statement that makes no malformed access completes. -/
theorem hostStmt_completes {s : State} {p : HostStmt} (rest : List HostStmt)
    (h : ∀ a, accessOf p = some a → ¬ MalformedAccess s.cfg.base a) : ∃ t, hostStmt s rest p = .next t := by
  cases p with
  | wr a v =>
    obtain ⟨t, ht⟩ := Option.ne_none_iff_exists'.1 (mt (busWrite_eq_none_iff (w := v)).1 (h a rfl))
    simp only [hostStmt, ht]
    exact ⟨_, rfl⟩
  | rd a dst =>
    obtain ⟨q, hq⟩ := Option.ne_none_iff_exists'.1 (mt busRead_eq_none_iff.1 (h a rfl))
    simp only [hostStmt, hq]
    exact ⟨_, rfl⟩
  | poll a =>
    obtain ⟨q, hq⟩ := Option.ne_none_iff_exists'.1 (mt busRead_eq_none_iff.1 (h a rfl))
    simp only [hostStmt, hq]
    exact ⟨_, rfl⟩
  | pair dst => exact ⟨_, rfl⟩
  | put addr count => exact ⟨_, rfl⟩
  | failIf => exact ⟨_, rfl⟩

/-- The reset event establishes the engine's part of the invariant (10_state.md R53). -/
theorem resetEngine_inv {s : State} (hcfg : s.cfg.wf) (hhost : s.host.Canonical) : (resetEngine s).Inv where
  config := hcfg
  cursorInRange := Nat.le_refl _
  seededFull := nofun
  unseededEmpty _ := ⟨rfl, rfl⟩
  running := rfl
  canonical := List.Pairwise.nil
  within := rfl
  code := .inl rfl
  varsCanonical := hhost.1
  bufCanonical := hhost.2

namespace State.Inv

/-- The invariant does not speak of the schedule. -/
theorem of_turnNext {turn : Turn} {s u : State} (hs : s.Inv) (hu : TurnNext turn s u) : u.Inv := by
  rw [turnNext_frame hu]
  exact { hs with }

theorem of_hostTurn {s t : State} (hs : s.Inv) (h : hostTurn s = .next t) : t.Inv := by
  obtain ⟨hvars, hbuf⟩ := hostTurn_canonical ⟨hs.varsCanonical, hs.bufCanonical⟩ h
  rw [hostTurn_frame h]
  exact { hs with varsCanonical := hvars, bufCanonical := hbuf }

/-- A command that ends with an error code and touches nothing but the result keeps the invariant. -/
theorem of_complete {s : State} (hs : s.Inv) {code : ErrCode} (hcode : code ≠ .defect) : (complete code s).Inv :=
  { hs with
    code := by
      cases code with
      | ok => exact .inl rfl
      | illegal => exact .inr (.inl rfl)
      | unseeded => exact .inr (.inr rfl)
      | defect => exact absurd rfl hcode }

/-- SEED completes and leaves every block set (42_seed_certify.md R140). -/
theorem exec_seed_completes {s : State} (hs : s.Inv) : ∃ t, exec .seed s = .next t ∧ t.Inv := by
  obtain ⟨m, dp, hop, -, -, -, hwf, hwithin⟩ := seedOp_spec s
  have hfull := seedOp_full hop
  exact ⟨_, exec_seed_of_op hop,
    { hs with
      cursorInRange := Nat.le_refl _
      seededFull := fun _ => hfull
      unseededEmpty := nofun
      canonical := hwf hs.canonical
      within := hwithin hs.within
      code := .inl rfl }⟩

/-- A read that goes through keeps the invariant, where it leaves the cursor in range and every block set. -/
theorem of_completesRead {s t : State} (hs : s.Inv) (hseeded : s.seeded = true) (hread : CompletesRead s t)
    (hcursor : t.cursor ≤ s.cfg.nwords) (hfull : t.sm.full s.cfg.nblk = true) (hwf : Memory.wf t.sm)
    (hwithin : t.sm.within s.cfg.nblk = true) : t.Inv := by
  rw [hread]
  exact { hs with
    cursorInRange := hcursor
    seededFull := fun _ => hfull
    unseededEmpty := fun h => absurd (hseeded.symm.trans h) nofun
    canonical := hwf
    within := hwithin
    code := .inl rfl }

/-- NEXT32 completes; on a seeded engine the cursor was below W, or is 1 after a regeneration
(43_extraction.md R160). -/
theorem exec_next32_completes {s : State} (hs : s.Inv) : ∃ t, exec .next32 s = .next t ∧ t.Inv := by
  cases hseeded : s.seeded with
  | false => exact ⟨_, (exec_next_unseeded hseeded).1, hs.of_complete nofun⟩
  | true =>
    obtain ⟨m, dp, r, hop, -, hfull, -, hwf, hwithin⟩ := pop32_of_full hs.config (hs.seededFull hseeded)
    have hW : s.cfg.nwords = 4 * s.cfg.nblk := rfl
    have hN := mexp_nblk_ge s.cfg
    have hcursor : (if s.cursor ≥ s.cfg.nwords then 0 else s.cursor) + 1 ≤ s.cfg.nwords := by split <;> omega
    exact ⟨_, exec_next32_of_pop hseeded hop, hs.of_completesRead hseeded (pop32_completesRead hop) hcursor hfull
      (hwf hs.canonical) (hwithin hs.within)⟩

/-- NEXT64 completes; on a seeded engine the cursor was below W - 1, or is 2 after a regeneration
(43_extraction.md R161). -/
theorem exec_next64_completes {s : State} (hs : s.Inv) : ∃ t, exec .next64 s = .next t ∧ t.Inv := by
  cases hseeded : s.seeded with
  | false => exact ⟨_, (exec_next_unseeded hseeded).2, hs.of_complete nofun⟩
  | true =>
    obtain ⟨m, dp, lo, hi, hop, -, -, hfull, -, hwf, hwithin⟩ := pop64_of_full hs.config (hs.seededFull hseeded)
    have hW : s.cfg.nwords = 4 * s.cfg.nblk := rfl
    have hN := mexp_nblk_ge s.cfg
    have hcursor : (if s.cursor ≥ s.cfg.nwords - 1 then 0 else s.cursor) + 2 ≤ s.cfg.nwords := by
      split <;> omega
    exact ⟨_, exec_next64_of_pop hseeded hop, hs.of_completesRead hseeded (pop64_completesRead hop) hcursor hfull
      (hwf hs.canonical) (hwithin hs.within)⟩

/-- A turn of the engine completes and keeps the invariant: the cursor in range excludes DEFECT, and every
command completes. -/
theorem engineTurn_completes {s : State} (hs : s.Inv) : ∃ t, engineTurn s = .next t ∧ t.Inv := by
  obtain ⟨-, he⟩ | ⟨_, -, -, he⟩ | ⟨_, -, -, hc, -⟩ | ⟨_, i, -, -, -, hd, he⟩ | ⟨_, _, -, -, -, -, he⟩ :=
    engineTurn_cases s
  · exact ⟨s, he, hs⟩
  · exact ⟨s, he, hs⟩
  · exact absurd hs.cursorInRange (Nat.not_le.2 hc)
  · rw [he]
    obtain ⟨-, rfl⟩ | ⟨-, rfl⟩ | ⟨-, rfl⟩ := decode_command hd
    · exact hs.exec_seed_completes
    · exact hs.exec_next32_completes
    · exact hs.exec_next64_completes
  · exact ⟨_, he, hs.of_complete nofun⟩

theorem of_takeTurn {turn : Turn} {s t : State} (hs : s.Inv) (h : takeTurn turn s = .next t) : t.Inv := by
  cases turn with
  | host => exact hs.of_hostTurn h
  | engine =>
    obtain ⟨v, hv, hinv⟩ := hs.engineTurn_completes
    cases hv.symm.trans h
    exact hinv
  | reset =>
    cases h
    exact resetEngine_inv hs.config ⟨hs.varsCanonical, hs.bufCanonical⟩

/-- The turns of the engine and of reset complete. -/
theorem takeTurn_completes {turn : Turn} {s : State} (hs : s.Inv) (hturn : turn ≠ .host) :
    ∃ t, takeTurn turn s = .next t := by
  cases turn with
  | host => exact absurd rfl hturn
  | engine => exact hs.engineTurn_completes.imp fun _ h => h.1
  | reset => exact ⟨_, rfl⟩

end State.Inv

/-- Settles O49: the turn that comes next keeps the invariant. -/
theorem everyStepKeepsTheInvariant : Obligations.EveryStepKeepsTheInvariant := by
  intro s t hs h
  obtain ⟨turn, u, hu⟩ := exists_turnNext s
  rw [step_of_turnNext hu] at h
  exact (hs.of_turnNext hu).of_takeTurn h

theorem step_of_malformedNext {s : State} (h : MalformedNext s) : step s = .refused .notAligned32 := by
  obtain ⟨u, p, rest, a, hu, hprog, ha, hm⟩ := h
  have hframe := turnNext_frame hu
  have hhost : u.host.prog = p :: rest := by rw [hframe]; exact hprog
  have hbase : MalformedAccess u.cfg.base a := by rw [hframe]; exact hm
  rw [step_of_turnNext hu]
  simp only [takeTurn, hostTurn, hhost, hostStmt_of_malformed ha hbase]

/-- A host turn that comes next and makes no malformed access completes. -/
theorem hostTurn_completes {s u : State} (hu : TurnNext .host s u) (h : ¬ MalformedNext s) :
    ∃ t, hostTurn u = .next t := by
  have hframe := turnNext_frame hu
  have hhost : u.host = s.host := by rw [hframe]
  have hcfg : u.cfg = s.cfg := by rw [hframe]
  unfold hostTurn
  split
  · exact ⟨u, rfl⟩
  · next p rest hprog =>
    exact hostStmt_completes rest fun a ha hm =>
      h ⟨u, p, rest, a, hu, by rw [← hhost]; exact hprog, ha, by rw [← hcfg]; exact hm⟩

/-- Settles O50: the engine and reset always complete, and the host wherever its access is not malformed. -/
theorem invariantStatesNeverFault : Obligations.InvariantStatesNeverFault := by
  intro s hs
  have hother : ∀ t u, TurnNext t s u → t ≠ .host → ∃ v, step s = .next v := fun t u hu ht => by
    rw [step_of_turnNext hu]
    exact (hs.of_turnNext hu).takeTurn_completes ht
  refine ⟨fun hmal => ?_, step_of_malformedNext, hother⟩
  obtain ⟨t, u, hu⟩ := exists_turnNext s
  by_cases ht : t = .host
  · subst ht
    rw [step_of_turnNext hu]
    exact hostTurn_completes hu hmal
  · exact hother t u hu ht

/-- A state right after reset is one the reset event leaves as it is. -/
theorem resetOf_inv {c : Config} (hc : c.wf) : (State.resetOf c).Inv :=
  resetEngine_inv (s := State.resetOf c) hc ⟨List.Pairwise.nil, List.Pairwise.nil⟩

theorem statusWord_resetOf (c : Config) : statusWord (State.resetOf c) = 0x00000000#32 := by
  simp [statusWord, busy, bitAt, State.resetOf]

/-- Settles O48: the reset event establishes the invariant, and MEXP 607 is a legal configuration. -/
theorem resetStateMeetsTheInvariant : Obligations.ResetStateMeetsTheInvariant :=
  ⟨fun _ hc => ⟨resetOf_inv hc, statusWord_resetOf _, rfl, fun _ => rfl, rfl, rfl, rfl, rfl, rfl⟩,
    resetOf_inv (defaultConfig_wf .m607 rfl)⟩

end Sys2Proof.Machine
end

section
/-! The statements about the interface registers, `seeded` and the configuration. -/

namespace Sys2Proof.Machine

/-- Settles O40: CMD is the register at offset 0 of the window. -/
theorem cmdWriteIssuesOrIsDropped : Obligations.CmdWriteIssuesOrIsDropped := by
  intro s u w rest hu hprog
  have hbusy := busy_of_turnNext hu
  have hstep := step_of_registerWrite hu .cmd hprog
  refine ⟨fun hb => ?_, fun hb => ?_, busRead_register s .cmd⟩
  · rw [hstep, writeReg, if_pos (hbusy.trans hb)]
    rfl
  · rw [writeReg, if_neg (by simp [hbusy, hb])] at hstep
    exact ⟨_, hstep, rfl, rfl⟩

/-- Settles O41: DIN is the register at offset 4 of the window. -/
theorem dinWriteStoresOrIsDropped : Obligations.DinWriteStoresOrIsDropped := by
  intro s u w rest hu hprog
  have hbusy := busy_of_turnNext hu
  have hstep := step_of_registerWrite hu .din hprog
  refine ⟨fun hb => ?_, fun hb => ?_, busRead_register s .din⟩
  · rw [hstep, writeReg, if_pos (hbusy.trans hb)]
    rfl
  · rw [hstep, writeReg, if_neg (by simp [hbusy, hb])]
    rfl

/-- Settles O42, bit by bit. -/
theorem statusFieldsAndWriteOneToClear : Obligations.StatusFieldsAndWriteOneToClear := by
  intro s
  have hwrite (w : Word32) := busWrite_register s .status w
  simp only [writeReg, writeStatus_eq] at hwrite
  exact ⟨⟨statusWord_busy s, statusWord_seeded s, statusWord_sticky s, statusWord_overrun s,
    statusWord_reserved_low s, statusWord_err s, statusWord_reserved_high s⟩, hwrite, busRead_register s .status⟩

/-- A register whose value is below two to `k` reads as that value, with zeros from bit `k` on. -/
theorem busRead_register_value (s : State) (r : Reg) {x k : Nat} (hx : (readReg s r).toNat = x)
    (hk : x < 2 ^ k) (m : Nat) :
    ∃ v, busRead s ⟨s.cfg.base + r.offset, .w32⟩ = some (v, s) ∧ v.toNat = x ∧ v.extractLsb' k m = 0#m := by
  have hv : ((readReg s r).setWidth 64).toNat = x := by
    rw [BitVec.toNat_setWidth_of_le (by decide), hx]
  exact ⟨_, busRead_register s r, hv, extractLsb'_eq_zero_of_lt (hv ▸ hk) m⟩

theorem readReg_cursor_toNat {s : State} (h : s.cursor ≤ s.cfg.nwords) :
    (readReg s .cursor).toNat = s.cursor := by
  have hW := nwords_lt s.cfg
  rw [readReg, BitVec.toNat_setWidth_of_le (by decide), BitVec.toNat_ofNat, Nat.mod_eq_of_lt (by omega)]

theorem readReg_mexp_toNat (s : State) : (readReg s .mexp).toNat = s.cfg.mexp.toNat := by
  have hM := mexp_lt s.cfg.mexp
  rw [readReg, BitVec.toNat_ofNat, Nat.mod_eq_of_lt (by omega)]

theorem readReg_nblk_toNat (s : State) : (readReg s .nblk).toNat = s.cfg.nblk := by
  have hN := nblk_lt s.cfg
  rw [readReg, BitVec.toNat_ofNat, Nat.mod_eq_of_lt (by omega)]

/-- Settles O43: each value fits the bits of its register. -/
theorem readOnlyRegisters : Obligations.ReadOnlyRegisters := by
  intro s
  refine ⟨busRead_register s .dout0, busRead_register s .dout1, fun hc => ?_, ?_, ?_,
    busRead_register s .regenCount, fun off hoff w => ?_⟩
  · have hW := nwords_lt s.cfg
    exact busRead_register_value s .cursor (readReg_cursor_toNat hc) (by omega) 16
  · exact busRead_register_value s .mexp (readReg_mexp_toNat s) (mexp_lt _) 14
  · exact busRead_register_value s .nblk (readReg_nblk_toNat s) (nblk_lt _) 21
  · simp only [List.mem_cons, List.not_mem_nil, or_false] at hoff
    obtain rfl | rfl | rfl | rfl | rfl | rfl := hoff
    · exact busWrite_register s .dout0 w
    · exact busWrite_register s .dout1 w
    · exact busWrite_register s .cursor w
    · exact busWrite_register s .mexp w
    · exact busWrite_register s .nblk w
    · exact busWrite_register s .regenCount w

/-- Settles O44: no register lies at a reserved offset, and an access outside the window reaches none. -/
theorem reservedAndOutsideAccessesDoNothing : Obligations.ReservedAndOutsideAccessesDoNothing := by
  intro s
  refine ⟨fun off hlo hhi halign => ⟨busRead_reserved s hlo hhi halign, fun w =>
    busWrite_reserved s w hlo hhi halign⟩, fun a ha => ⟨fun w => ?_, ?_⟩⟩
  · simp only [busWrite, target_outside ha]
  · refine ⟨_, s.freeIx + 1, ?_, Width.cut_lt a.width (Config.outsideRead s.freeIx a.addr)⟩
    simp only [busRead, target_outside ha]

/-- Settles O51: SEED sets `seeded`, and only the turn of reset clears it. -/
theorem seededIsClearedOnlyByReset : Obligations.SeededIsClearedOnlyByReset := by
  refine ⟨resetOf_seeded, fun s => ?_, fun s t h hseeded hsched => ?_, fun s hs => ?_, statusWord_seeded⟩
  · obtain ⟨m, dp, hop, -⟩ := seedOp_spec s
    exact ⟨_, exec_seed_of_op hop, rfl⟩
  · obtain ⟨turn, u, hu⟩ := exists_turnNext s
    rw [step_of_turnNext hu] at h
    have hu' : u.seeded = true := by rw [turnNext_frame hu]; exact hseeded
    exact takeTurn_keeps_seeded (turnNext_ne_reset hu hsched) h hu'
  · obtain ⟨h32, h64⟩ := exec_next_unseeded hs
    exact ⟨_, _, h32, h64, rfl, rfl⟩

/-- Settles O52: no turn writes the configuration. -/
theorem configurationNeverChanges : Obligations.ConfigurationNeverChanges := by
  intro s t h
  obtain ⟨turn, u, hu⟩ := exists_turnNext s
  rw [step_of_turnNext hu] at h
  rw [takeTurn_keeps_cfg h, turnNext_frame hu]

end Sys2Proof.Machine
end

section
/-! The word and pair views of SM as little-endian reads of its bytes (20_memory.md R61 to R63, 00_scope.md
R15). -/

namespace Sys2Proof.Machine

/-- Byte `j` of lane `l` of a block is byte `4 * l + j` of the block. -/
theorem extractLsb'_lane (v : Block) (l : Nat) {j : Nat} (hj : j < 4) :
    (lane v l).extractLsb' (8 * j) 8 = blockByte v (4 * l + j) := by
  apply BitVec.eq_of_getLsbD_eq
  intro i hi
  rw [BitVec.getLsbD_extractLsb', lane_getLsbD, blockByte, BitVec.getLsbD_extractLsb',
    show 32 * l + (8 * j + i) = 8 * (4 * l + j) + i by omega]
  simp [show 8 * j + i < 32 by omega]

/-- The four bytes from `4 * p` on lie in one block, and are the bytes of the word `p`. -/
theorem Memory.byte_of_w32 {m : Memory} {p : Nat} {r : Word32} (h : m.w32 p = some r) {j : Nat} (hj : j < 4) :
    m.byte (4 * p + j) = some (r.extractLsb' (8 * j) 8) := by
  obtain ⟨v, hv, rfl⟩ := Option.map_eq_some_iff.1 h
  rw [Memory.byte, show (4 * p + j) / 16 = p / 4 by omega, hv, Option.map_some, extractLsb'_lane v _ hj,
    show (4 * p + j) % 16 = 4 * (p % 4) + j by omega]

/-- A read of at most four bytes takes the low bytes of the word. -/
theorem Memory.memRead_of_w32 {m : Memory} {p : Nat} {r : Word32} (h : m.w32 p = some r) :
    ∀ {n : Nat}, n ≤ 4 → m.memRead p n = some (r.toNat % 2 ^ (8 * n))
  | 0, _ => by simp [Memory.memRead, Nat.mod_one]
  | n + 1, hn => by
    have hbyte : (r.extractLsb' (8 * n) 8).toNat = r.toNat / 2 ^ (8 * n) % 2 ^ 8 := by
      rw [BitVec.extractLsb'_toNat, Nat.shiftRight_eq_div_pow]
    simp only [Memory.memRead, Memory.memRead_of_w32 h (Nat.le_of_succ_le hn), Memory.byte_of_w32 h hn, hbyte]
    rw [Nat.mul_succ, Nat.pow_add, Nat.mod_mul, Nat.mul_comm (2 ^ (8 * n))]

theorem Memory.memRead_four {m : Memory} {p : Nat} {r : Word32} (h : m.w32 p = some r) :
    m.memRead p 4 = some r.toNat := by
  rw [Memory.memRead_of_w32 h (Nat.le_refl 4), Nat.mod_eq_of_lt r.isLt]

/-- A read that goes on past a word goes on from the next word's position. -/
theorem Memory.memRead_four_add {m : Memory} {p x : Nat} (hx : m.memRead p 4 = some x) :
    ∀ {n y : Nat}, m.memRead (p + 1) n = some y → m.memRead p (4 + n) = some (x + y * 2 ^ 32)
  | 0, y, hy => by cases hy; simpa using hx
  | n + 1, y, hy => by
    rw [Memory.memRead] at hy
    split at hy
    · next lo b hlo hb =>
      cases hy
      rw [← Nat.add_assoc, Memory.memRead, Memory.memRead_four_add hx hlo,
        show 4 * p + (4 + n) = 4 * (p + 1) + n by omega, hb]
      exact congrArg some (by ring)
    · cases hy

/-- A 64-bit value is the sum of its two halves. -/
theorem toNat_eq_halves (r : Word64) :
    r.toNat = (r.extractLsb' 32 32).toNat * 2 ^ 32 + (r.extractLsb' 0 32).toNat := by
  have := r.isLt
  simp only [BitVec.extractLsb'_toNat, Nat.shiftRight_eq_div_pow]
  omega

/-- Settles O30: the pair reads its low word first, then the word after it, in the same block or the next. -/
theorem wordViewsAreBytesOfTheState : Obligations.WordViewsAreBytesOfTheState := by
  refine fun m p => ⟨fun r => Memory.memRead_four, fun lo hi hlo hhi => ?_⟩
  obtain ⟨r, hr, rfl, rfl⟩ := Memory.w64_of_w32 hlo hhi
  have hvalue := toNat_eq_halves r
  refine ⟨r, hr, ?_, hvalue⟩
  rw [Memory.memRead_four_add (Memory.memRead_four hlo) (Memory.memRead_four hhi), hvalue, Nat.add_comm]

end Sys2Proof.Machine
end

section
/-! The accesses the interface window answers (20_memory.md R68). -/

namespace Sys2Proof.Machine

/-- A read within the window changes nothing, whether its offset holds a register or is reserved. -/
theorem busRead_of_window {s : State} {a : Access} {off : Nat} (h : target s.cfg.base a = .window off) :
    ∃ v, busRead s a = some (v, s) := by
  simp only [busRead, h]
  cases regAt off with
  | none => exact ⟨_, rfl⟩
  | some r => exact ⟨_, rfl⟩

/-- A statement makes one access at most: where that of the next one is not malformed, none comes next that is. -/
theorem not_malformedNext {s : State} {p : HostStmt} {rest : List HostStmt} {a : Access}
    (hprog : s.host.prog = p :: rest) (ha : accessOf p = some a) (hm : ¬ MalformedAccess s.cfg.base a) :
    ¬ MalformedNext s := by
  rintro ⟨u, q, rest', b, -, hprog', hb, hmal⟩
  cases hprog.symm.trans hprog'
  cases ha.symm.trans hb
  exact hm hmal

/-- Settles O45: an aligned word access has an offset of the window as its target, and is not malformed. -/
theorem onlyAlignedWordAccessesAreModelled : Obligations.OnlyAlignedWordAccessesAreModelled := by
  refine fun s a => ⟨fun hword => ?_, fun hmal => ?_⟩
  · have hm : ¬ MalformedAccess s.cfg.base a := fun ⟨_, _, hnot⟩ => hnot hword
    refine ⟨?_, fun w => ?_, fun u p rest hu hprog ha => ?_⟩
    · obtain ⟨k, hk, rfl⟩ := hword
      exact busRead_of_window (target_window (by omega) (Nat.mul_mod_right 4 k))
    · exact Option.ne_none_iff_exists'.1 (mt busWrite_eq_none_iff.1 hm)
    · rw [step_of_turnNext hu]
      exact hostTurn_completes hu (not_malformedNext hprog ha hm)
  · exact ⟨busRead_eq_none_iff.2 hmal, fun w => busWrite_eq_none_iff.2 hmal,
      fun u p rest hu hprog ha => step_of_malformedNext ⟨u, p, rest, a, hu, hprog, ha, hmal⟩⟩

end Sys2Proof.Machine
end

section
/-! The seed of a byte string (20_memory.md R65). -/

namespace Sys2Proof.Machine

/-- A byte joined above a value below two to `k` adds its value times two to `k`. -/
theorem toNat_or_byte_shiftLeft {v : Word32} (b : Byte) {k : Nat} (hv : v.toNat < 2 ^ k) (hk : k + 8 ≤ 32) :
    (v ||| b.setWidth 32 <<< k).toNat = v.toNat + b.toNat * 2 ^ k := by
  have hshift : (b.setWidth 32 <<< k).toNat = b.toNat <<< k := by
    have hlt : b.toNat * 2 ^ k < 2 ^ 32 := calc
      b.toNat * 2 ^ k < 2 ^ 8 * 2 ^ k := Nat.mul_lt_mul_of_pos_right b.isLt (Nat.two_pow_pos k)
      _ = 2 ^ (8 + k) := (Nat.pow_add 2 8 k).symm
      _ ≤ 2 ^ 32 := Nat.pow_le_pow_right (by decide) (by omega)
    rw [BitVec.toNat_shiftLeft, BitVec.toNat_setWidth_of_le (by decide), Nat.shiftLeft_eq, Nat.mod_eq_of_lt hlt]
  rw [BitVec.toNat_or, hshift, Nat.or_comm, ← Nat.shiftLeft_add_eq_or_of_lt hv, Nat.shiftLeft_eq, Nat.add_comm]

/-- The bytes of a 4-byte seed, the first least significant (20_memory.md R65). -/
theorem seedOfBytes_toNat (b0 b1 b2 b3 : Byte) :
    (Asm.seedOfBytes b0 b1 b2 b3).toNat =
      b0.toNat + b1.toNat * 2 ^ 8 + b2.toNat * 2 ^ 16 + b3.toNat * 2 ^ 24 := by
  have h0 : (b0.setWidth 32).toNat = b0.toNat := BitVec.toNat_setWidth_of_le (by decide)
  have h1 := toNat_or_byte_shiftLeft b1 (v := b0.setWidth 32) (k := 8) (by omega) (by decide)
  have h2 := toNat_or_byte_shiftLeft b2 (k := 16) (by rw [h1]; omega) (by decide)
  have h3 := toNat_or_byte_shiftLeft b3 (k := 24) (by rw [h2]; omega) (by decide)
  rw [Asm.seedOfBytes, h3, h2, h1, h0]

/-- Settles O60: both byte-string seeds are `seed32` of the word of the first four bytes. -/
theorem seedBytesAreLittleEndian : Obligations.SeedBytesAreLittleEndian :=
  fun _ b0 b1 b2 b3 _ _ _ _ => ⟨seedOfBytes_toNat b0 b1 b2 b3, rfl, rfl⟩

end Sys2Proof.Machine
end

section
/-! The decoder and the encoder (30_encoding.md R80 to R88). -/

namespace Sys2Proof.Machine

/-- The word of an instruction, where it has one, decodes to it. -/
theorem decode_of_encode {i : Instr} {w : Word32} (h : encode i = some w) : decode w = .command i := by
  cases i with
  | seed => exact Laws.DecodeEncode.seed w h
  | next32 => exact Laws.DecodeEncode.next32 w h
  | next64 => exact Laws.DecodeEncode.next64 w h
  | vand | vxor | vsrl32 | vsll32 | vsrlb | vsllb | recur | regen | expand | certify => cases h

/-- A word that decodes to an instruction is the word of that instruction. -/
theorem encode_of_decode {i : Instr} {w : Word32} (h : decode w = .command i) : encode i = some w := by
  obtain ⟨rfl, rfl⟩ | ⟨rfl, rfl⟩ | ⟨rfl, rfl⟩ := decode_command h
  · rfl
  · rfl
  · rfl

/-- The internal operations have no command word (30_encoding.md R88). -/
theorem isHostCommand_iff_encode {i : Instr} : isHostCommand i = true ↔ ∃ w, encode i = some w := by
  cases i with
  | seed | next32 | next64 => exact ⟨fun _ => ⟨_, rfl⟩, fun _ => rfl⟩
  | vand | vxor | vsrl32 | vsll32 | vsrlb | vsllb | recur | regen | expand | certify => exact ⟨nofun, nofun⟩

/-- Settles O4: each direction of the inverse is a case split over the answers of one of the two functions. -/
theorem decodeAndEncodeAgree : Obligations.DecodeAndEncodeAgree :=
  ⟨fun _ _ => ⟨decode_of_encode, encode_of_decode⟩, fun _ => isHostCommand_iff_encode⟩

/-- Settles O3: a word that is none of the three decodes to no command. -/
theorem decoderIsTheOpcodeMap : Obligations.DecoderIsTheOpcodeMap := by
  refine ⟨decode_of_encode rfl, decode_of_encode rfl, decode_of_encode rfl, fun w h1 h2 h3 => ?_⟩
  cases hd : decode w with
  | illegal y => exact ⟨y, rfl⟩
  | command i =>
    obtain ⟨hw, -⟩ | ⟨hw, -⟩ | ⟨hw, -⟩ := decode_command hd
    · exact absurd hw h1
    · exact absurd hw h2
    · exact absurd hw h3

/-- The table's reading of a 32-bit word is the decoder's. -/
theorem decode_of_decodeTableWord {w : Nat} {i : Instr} (h : decodeTableWord 32 w = some i) :
    decode (BitVec.ofNat 32 (w % 2 ^ 32)) = .command i := by
  rw [decodeTableWord, if_pos (Nat.mod_lt w (Nat.two_pow_pos 32))] at h
  split at h
  · next j hj => cases h; exact hj
  · cases h

end Sys2Proof.Machine
end

section
/-! The engine's turn and the step that takes it (30_encoding.md R90, 10_state.md R35). -/

namespace Sys2Proof.Machine

/-- The engine's turn on a command word that it can run is the command. -/
theorem engineTurn_of_command {s : State} {w : Word32} {i : Instr} (hpend : s.pend = some w)
    (hrun : s.halted = false) (hcursor : s.cursor ≤ s.cfg.nwords) (hd : decode w = .command i) :
    engineTurn s = exec i s := by
  simp only [engineTurn, runWord, hpend, hrun, hd, if_neg (Nat.not_lt.2 hcursor), Bool.false_eq_true, if_false]

/-- With no turn scheduled a pending command goes before the host (log entry 7). -/
theorem turnNext_engine_of_pending {s : State} {w : Word32} (hpend : s.pend = some w) (hrun : s.halted = false)
    (hsched : s.sched = []) : TurnNext .engine s s :=
  .inr ⟨hsched, by simp [engineReady, hpend, hrun], rfl⟩

/-- With no turn scheduled and no command pending the host moves (log entry 7). -/
theorem turnNext_host_of_idle {s : State} (hpend : s.pend = none) (hsched : s.sched = []) : TurnNext .host s s :=
  .inr ⟨hsched, by simp [engineReady, hpend], rfl⟩

/-- Settles O31: in both cases the engine's turn comes next, and its checks let the command through. -/
theorem stepRunsTheDecodedCommand : Obligations.StepRunsTheDecodedCommand := by
  intro s w i hpend hrun hcursor hd
  refine ⟨fun hsched => ?_, fun rest hsched => ?_⟩
  · rw [step_of_turnNext (turnNext_engine_of_pending hpend hrun hsched)]
    exact engineTurn_of_command hpend hrun hcursor hd
  · rw [step_of_turnNext (.inl ⟨rest, hsched, rfl⟩)]
    exact engineTurn_of_command (s := { s with sched := rest }) hpend hrun hcursor hd

/-- Settles O32: the placed word meets the engine's checks, whatever the state was. -/
theorem placedCommandRunsNext : Obligations.PlacedCommandRunsNext := fun s _ i h =>
  (stepRunsTheDecodedCommand _ _ i (placeWord_pend s _) (placeWord_halted s _) (Nat.min_le_right _ _)
    (decode_of_decodeTableWord h)).2 s.sched (placeWord_sched s _)

/-- Settles O39: of the engine's turns these two are the ones that pass. -/
theorem engineWithoutAStepChangesNothing : Obligations.EngineWithoutAStepChangesNothing := by
  rintro s (hpend | hhalted)
  · simp only [engineTurn, hpend]
  · unfold engineTurn
    split
    · rfl
    · exact if_pos hhalted

end Sys2Proof.Machine
end

section
/-! A machine at rest whose host issues a command and waits for it (30_encoding.md R86, R87,
70_reset_and_hazards.md R235, R236). -/

namespace Sys2Proof.Machine

/-- No command is in flight and no turn is scheduled, so that the host moves next. -/
structure AtRest (s : State) : Prop where
  pend : s.pend = none
  running : s.halted = false
  sched : s.sched = []

theorem AtRest.turnNext {s : State} (hs : AtRest s) : TurnNext .host s s :=
  turnNext_host_of_idle hs.pend hs.sched

theorem AtRest.not_busy {s : State} (hs : AtRest s) : busy s = false := by
  simp [busy, hs.pend, hs.running]

theorem AtRest.withHost {s : State} (hs : AtRest s) (h : HostState) : AtRest (setHost s h) :=
  { hs with }

theorem AtRest.withDin {s : State} (hs : AtRest s) (v : Word32) : AtRest { s with din := v } :=
  { hs with }

/-- The step of a machine at rest is the next statement of its host. -/
theorem AtRest.step_eq_hostStmt {s : State} (hs : AtRest s) {p : HostStmt} {rest : List HostStmt}
    (hprog : s.host.prog = p :: rest) : step s = hostStmt s rest p := by
  rw [step_of_turnNext hs.turnNext]
  simp only [takeTurn, hostTurn, hprog]

theorem AtRest.step_din {s : State} (hs : AtRest s) {v : Word32} {rest : List HostStmt}
    (hprog : s.host.prog = .wr (Asm.at32 s.cfg.base .din) v :: rest) :
    step s = .next (setHost { s with din := v } { s.host with prog := rest }) := by
  rw [step_of_registerWrite hs.turnNext .din hprog, writeReg, if_neg (by simp [hs.not_busy])]

theorem AtRest.step_cmd {s : State} (hs : AtRest s) {w : Word32} {rest : List HostStmt}
    (hprog : s.host.prog = .wr (Asm.at32 s.cfg.base .cmd) w :: rest) :
    step s = .next (setHost { s with pend := some w } { s.host with prog := rest }) := by
  rw [step_of_registerWrite hs.turnNext .cmd hprog, writeReg, if_neg (by simp [hs.not_busy])]

theorem AtRest.step_rd {s : State} (hs : AtRest s) {r : Reg} {dst : HVar} {rest : List HostStmt}
    (hprog : s.host.prog = .rd (Asm.at32 s.cfg.base r) dst :: rest) :
    step s = .next (setHost s ({ s.host with prog := rest }.set dst ((readReg s r).setWidth 64))) := by
  rw [hs.step_eq_hostStmt hprog]
  simp only [hostStmt, Asm.at32, busRead_register]

/-- With BUSY 0 a wait ends at its first poll. -/
theorem AtRest.step_wait {s : State} (hs : AtRest s) {rest : List HostStmt}
    (hprog : s.host.prog = .poll (Asm.at32 s.cfg.base .status) :: rest) :
    step s = .next (setHost s { s.host with prog := rest, s := (statusWord s).setWidth 64 }) := by
  have hbit : ((readReg s .status).setWidth 64).getLsbD 0 = false := by
    rw [BitVec.getLsbD_setWidth, readReg, statusWord_busy, hs.not_busy]
    rfl
  rw [hs.step_eq_hostStmt hprog]
  simp only [hostStmt, Asm.at32, busRead_register, hbit]
  rfl

theorem AtRest.step_pair {s : State} (hs : AtRest s) {dst : HVar} {rest : List HostStmt}
    (hprog : s.host.prog = .pair dst :: rest) :
    step s = .next (setHost s ({ s.host with prog := rest }.set dst (pairOf s.host.hi s.host.lo))) :=
  hs.step_eq_hostStmt hprog

/-- A command issued on a machine at rest is run, and the wait after it ends, in three steps. The command
answers `u` whatever the host holds, and leaves the machine at rest. -/
theorem AtRest.run_command {s u : State} (hs : AtRest s) (hu : AtRest u) {w : Word32} {i : Instr}
    {rest : List HostStmt} (hcursor : s.cursor ≤ s.cfg.nwords) (hcfg : u.cfg = s.cfg)
    (hprog : s.host.prog = Asm.command s.cfg.base w ++ Asm.wait s.cfg.base ++ rest)
    (hd : decode w = .command i)
    (hexec : ∀ h, exec i (setHost { s with pend := some w } h) = .next (setHost u h)) (k : Nat) :
    core.run (k + 3) s =
      core.run k (setHost u { s.host with prog := rest, s := (statusWord u).setWidth 64 }) := by
  have hengine (h : HostState) : step (setHost { s with pend := some w } h) = .next (setHost u h) := by
    rw [(stepRunsTheDecodedCommand (setHost { s with pend := some w } h) w i rfl hs.running hcursor hd).1
      hs.sched, hexec]
  calc core.run (k + 3) s
    _ = core.run (k + 2) (setHost { s with pend := some w }
          { s.host with prog := Asm.wait s.cfg.base ++ rest }) := run_of_step core (hs.step_cmd hprog)
    _ = core.run (k + 1) (setHost u _) := run_of_step core (hengine _)
    _ = _ := run_of_step core ((hu.withHost _).step_wait (by rw [setHost_cfg, hcfg]; rfl))

/-! A command neither sees nor touches the host, and does not see PEND: it answers the same whatever they hold. -/

theorem seedOp_setHost {s t : State} (hop : seedOp s = some t) (h : HostState) (p : Option Word32) :
    seedOp (setHost { s with pend := p } h) = some (setHost t h) := by
  simp only [seedOp, certifyOp, expandOp] at hop
  split at hop
  · next hcert =>
    split at hcert
    · next hblock =>
      cases hcert
      cases hop
      simp only [seedOp, certifyOp, expandOp, setHost, hblock]
      rfl
    · cases hcert
  · cases hop

theorem regenOp_setHost {s t : State} (hop : regenOp s = some t) (h : HostState) (p : Option Word32) :
    regenOp (setHost { s with pend := p } h) = some (setHost { t with pend := p } h) := by
  simp only [regenOp] at hop
  split at hop
  · next h1 h2 =>
    split at hop
    · next hloop =>
      cases hop
      simp only [regenOp, setHost, h1, h2, hloop]
    · cases hop
  · cases hop

theorem regenFrom_setHost {limit : Nat} {s t : State} (hop : regenFrom limit s = some t) (h : HostState)
    (p : Option Word32) :
    regenFrom limit (setHost { s with pend := p } h) = some (setHost { t with pend := p } h) := by
  unfold regenFrom at hop
  split at hop
  · next hlimit => exact (if_pos hlimit).trans (regenOp_setHost hop h p)
  · next hlimit => cases hop; exact if_neg hlimit

theorem pop64_setHost {s t : State} (hop : pop64 s = some t) (h : HostState) (p : Option Word32) :
    pop64 (setHost { s with pend := p } h) = some (setHost t h) := by
  unfold pop64 at hop
  split at hop
  · next hregen =>
    have hregen' := regenFrom_setHost hregen h p
    split at hop
    · next hread =>
      cases hop
      simp only [pop64, setHost] at hregen' ⊢
      simp only [hregen', hread]
      rfl
    · cases hop
  · cases hop

/-- NEXT64 on a seeded engine hands out the two words at the cursor that the regeneration check leaves. -/
theorem pop64_of_regenFrom {s u : State} (h : regenFrom (s.cfg.nwords - 1) s = some u) {lo hi : Word32}
    (hlo : u.sm.w32 u.cursor = some lo) (hhi : u.sm.w32 (u.cursor + 1) = some hi) :
    pop64 s = some (complete .ok { u with cursor := u.cursor + 2, dout0 := lo, dout1 := hi }) := by
  obtain ⟨r, hr, rfl, rfl⟩ := Memory.w64_of_w32 hlo hhi
  simp only [pop64, h, hr]

end Sys2Proof.Machine
end

section
/-! The pseudo-instructions seed32 and get64 on a machine at rest (30_encoding.md R87). -/

namespace Sys2Proof.Machine

@[simp] theorem HostState.set_prog (h : HostState) (x : HVar) (v : Word64) : (h.set x v).prog = h.prog := by
  cases x <;> rfl

@[simp] theorem HostState.get_set_same (h : HostState) (x : HVar) (v : Word64) : (h.set x v).get x = v := by
  cases x with
  | var n => exact congrArg (Option.getD · 0) (Cells.read_write_same h.vars n v)
  | s | lo | hi | r => rfl

/-- The pair of two register values, the second in the low half (00_scope.md R14). -/
theorem pairOf_toNat (hi lo : Word32) :
    (pairOf (hi.setWidth 64) (lo.setWidth 64)).toNat = hi.toNat * 2 ^ 32 + lo.toNat := by
  have hlow : ((lo.setWidth 64).setWidth 32).setWidth 64 = lo.setWidth 64 := by simp
  have hhigh : (hi.setWidth 64 <<< 32).toNat = hi.toNat <<< 32 := by
    rw [BitVec.toNat_shiftLeft, BitVec.toNat_setWidth_of_le (by decide), Nat.shiftLeft_eq, Nat.mod_eq_of_lt]
    have := hi.isLt
    omega
  rw [pairOf, hlow, BitVec.toNat_or, hhigh, BitVec.toNat_setWidth_of_le (by decide),
    ← Nat.shiftLeft_add_eq_or_of_lt lo.isLt, Nat.shiftLeft_eq]

theorem State.Inv.atRest {s : State} (hs : s.Inv) (hpend : s.pend = none) (hsched : s.sched = []) : AtRest s :=
  ⟨hpend, hs.running, hsched⟩

theorem AtRest.of_seedOp {s u : State} (hs : AtRest s) (hop : seedOp s = some u) : AtRest u ∧ u.cfg = s.cfg := by
  obtain ⟨m, dp, hspec, -⟩ := seedOp_spec s
  cases hop.symm.trans hspec
  exact ⟨⟨rfl, hs.running, hs.sched⟩, rfl⟩

/-- A seed32 on a machine at rest writes DIN and runs SEED. -/
theorem AtRest.run_seed32 {s u : State} (hs : AtRest s) (hcursor : s.cursor ≤ s.cfg.nwords) {v : Word32}
    {rest : List HostStmt} (hprog : s.host.prog = Asm.seed32 s.cfg.base v ++ rest)
    (hop : seedOp { s with din := v } = some u) (k : Nat) :
    ∃ h, core.run (k + 4) s = core.run k (setHost u h) ∧ h.prog = rest := by
  obtain ⟨hu, hcfg⟩ := (hs.withDin v).of_seedOp hop
  have hrun := ((hs.withDin v).withHost { s.host with
    prog := Asm.command s.cfg.base 0x00000001#32 ++ Asm.wait s.cfg.base ++ rest }).run_command hu hcursor hcfg rfl
      (decode_of_encode rfl) (fun h => exec_seed_of_op (seedOp_setHost hop h _)) k
  exact ⟨_, (run_of_step core (hs.step_din hprog)).trans hrun, rfl⟩

/-- Settles O56: the write to DIN, then SEED and its wait. -/
theorem seedThirtyTwoSeedsTheEngine : Obligations.SeedThirtyTwoSeedsTheEngine := by
  intro s v rest hs hpend hsched hprog
  obtain ⟨m, dp, hop, -⟩ := seedOp_spec { s with din := v }
  have hs' := hs.atRest hpend hsched
  obtain ⟨hu, -⟩ := (hs'.withDin v).of_seedOp hop
  obtain ⟨h, hrun, hrest⟩ := hs'.run_seed32 hs.cursorInRange hprog hop 0
  exact ⟨_, _, hrun, hrest, rfl, (hu.withHost h).not_busy, rfl, exec_seed_of_op hop, rfl, rfl, rfl⟩

theorem CompletesRead.atRest {s t : State} (h : CompletesRead s t) (hs : AtRest s) : AtRest t := by
  rw [h]
  exact ⟨rfl, hs.running, hs.sched⟩

/-- The reads of the two results, and the pair of what they read, on a machine at rest. -/
theorem AtRest.run_readPair {u : State} (hu : AtRest u) {dst : HVar} {rest : List HostStmt}
    (hprog : u.host.prog =
      Asm.rd u.cfg.base .dout0 .lo ++ (Asm.rd u.cfg.base .dout1 .hi ++ .pair dst :: rest)) (k : Nat) :
    ∃ h, core.run (k + 3) u = core.run k (setHost u h) ∧ h.prog = rest ∧
      (h.get dst).toNat = u.dout1.toNat * 2 ^ 32 + u.dout0.toNat := by
  have hrun := calc core.run (k + 3) u
    _ = core.run (k + 2) (setHost u _) := run_of_step core (hu.step_rd hprog)
    _ = core.run (k + 1) (setHost u _) :=
      run_of_step core ((hu.withHost _).step_rd (r := .dout1) (dst := .hi) (rest := .pair dst :: rest) rfl)
    _ = core.run k (setHost u _) := run_of_step core ((hu.withHost _).step_pair rfl)
  exact ⟨_, hrun, HostState.set_prog _ _ _, by rw [HostState.get_set_same]; exact pairOf_toNat _ _⟩

/-- A get64 on a seeded machine at rest runs NEXT64 and leaves the pair of its results in the variable. -/
theorem AtRest.run_get64 {s u : State} (hs : AtRest s) (hseeded : s.seeded = true)
    (hcursor : s.cursor ≤ s.cfg.nwords) {dst : HVar} {rest : List HostStmt}
    (hprog : s.host.prog = Asm.get64 s.cfg.base dst ++ rest) (hop : pop64 s = some u) (k : Nat) :
    ∃ h, core.run (k + 6) s = core.run k (setHost u h) ∧ h.prog = rest ∧
      (h.get dst).toNat = u.dout1.toNat * 2 ^ 32 + u.dout0.toNat := by
  have hread := pop64_completesRead hop
  have hu := hread.atRest hs
  have hcfg := hread.keeps.1
  have hcommand := hs.run_command (rest := Asm.rd s.cfg.base .dout0 .lo ++
      (Asm.rd s.cfg.base .dout1 .hi ++ .pair dst :: rest)) hu hcursor hcfg hprog (decode_of_encode rfl)
    (fun h => exec_next64_of_pop hseeded (pop64_setHost hop h _)) (k + 3)
  refine Exists.imp (fun h hpair => ⟨hcommand.trans hpair.1, hpair.2⟩)
    ((hu.withHost _).run_readPair (dst := dst) (rest := rest) ?_ k)
  rw [setHost_cfg, hcfg]
  rfl

/-- Settles O57: NEXT64 hands out the words at the cursor that the regeneration check leaves. -/
theorem getSixtyFourReturnsOnePair : Obligations.GetSixtyFourReturnsOnePair := by
  intro s n rest hs hseeded hpend hsched hprog
  have hget {u : State} (hop : pop64 s = some u) :=
    (hs.atRest hpend hsched).run_get64 hseeded hs.cursorInRange hprog hop 0
  refine ⟨fun lo hi hcursor hlo hhi => ?_, fun hcursor => ?_⟩
  · obtain ⟨h, hrun, hrest, hvalue⟩ := hget (pop64_of_regenFrom (if_neg (Nat.not_le.2 hcursor)) hlo hhi)
    exact ⟨_, hrun, hrest, hvalue, rfl, rfl, rfl⟩
  · obtain ⟨m, dp, hregen, hfull, -⟩ := regenOp_of_full hs.config (hs.seededFull hseeded)
    have hN := mexp_nblk_ge s.cfg
    obtain ⟨lo, hlo⟩ := Memory.w32_of_full (p := 0) hfull (by omega)
    obtain ⟨hi, hhi⟩ := Memory.w32_of_full (p := 1) hfull (by omega)
    obtain ⟨h, hrun, hrest, hvalue⟩ := hget (pop64_of_regenFrom ((if_pos hcursor).trans hregen) hlo hhi)
    exact ⟨_, _, lo, hi, exec_regen_of_op hregen, hlo, hhi, hrun, hrest, hvalue, rfl, rfl, rfl⟩

end Sys2Proof.Machine
end

section
/-! The lane-vector operations: their results lane by lane, byte by byte and bit by bit, and what an
instruction of the family writes (40_lane_vector.md R100 to R107). -/

namespace Sys2Proof.Machine

/-- Settles O5: the operations are AND and XOR of 128 bits, and those of each lane are AND and XOR of its bits. -/
theorem laneLogicIsBitwise : Obligations.LaneLogicIsBitwise :=
  ⟨fun u w => ⟨rfl, fun l _ => lane_vand u w l, BitVec.and_zero, BitVec.and_allOnes, BitVec.and_self⟩,
    fun u w => ⟨rfl, fun l _ => lane_vxor u w l, BitVec.xor_self, BitVec.xor_zero, BitVec.xor_comm u w,
      BitVec.xor_assoc u w⟩, by decide, by decide, fun _ _ _ => ⟨rfl, rfl⟩⟩

theorem lane_zero (l : Nat) : lane 0 l = 0#32 := BitVec.extractLsb'_zero

theorem vsrl32_zero (u : Block) : vsrl32 u 0 = u := by simp [vsrl32]

theorem vsll32_zero (u : Block) : vsll32 u 0 = u := by simp [vsll32]

/-- An amount of a lane's width or more shifts every bit out of its lane. -/
theorem vsrl32_of_ge (u : Block) {k : Nat} (hk : 32 ≤ k) : vsrl32 u k = 0 :=
  eq_of_lanes fun l hl => by rw [lane_vsrl32 u k hl, BitVec.ushiftRight_eq_zero hk, lane_zero]

theorem vsll32_of_ge (u : Block) {k : Nat} (hk : 32 ≤ k) : vsll32 u k = 0 :=
  eq_of_lanes fun l hl => by rw [lane_vsll32 u k hl, BitVec.shiftLeft_eq_zero hk, lane_zero]

/-- A bit that comes from above bit 31 of the lane is 0, not a bit of the next lane. -/
theorem lane_vsrl32_getLsbD (u : Block) (k : Nat) {l : Nat} (hl : l < 4) (i : Nat) :
    (lane (vsrl32 u k) l).getLsbD i = (decide (i + k < 32) && (lane u l).getLsbD (i + k)) := by
  rw [lane_vsrl32 u k hl, BitVec.getLsbD_ushiftRight, Nat.add_comm k, lane_getLsbD]
  simp

/-- A bit that comes from below bit 0 of the lane is 0, not a bit of the lane before. -/
theorem lane_vsll32_getLsbD (u : Block) (k : Nat) {l i : Nat} (hl : l < 4) (hi : i < 32) :
    (lane (vsll32 u k) l).getLsbD i = (decide (k ≤ i) && (lane u l).getLsbD (i - k)) := by
  rw [lane_vsll32 u k hl, BitVec.getLsbD_shiftLeft]
  simp [hi, ← decide_not]

/-- Settles O6: each bit of a shifted lane comes from the same lane. -/
theorem laneShiftsStayInTheirLane : Obligations.LaneShiftsStayInTheirLane :=
  ⟨fun u k _ i hl hi => ⟨lane_vsrl32_getLsbD u k hl i, lane_vsll32_getLsbD u k hl hi⟩,
    fun u => ⟨vsrl32_zero u, vsll32_zero u⟩, fun u _ hk => ⟨vsrl32_of_ge u hk, vsll32_of_ge u hk⟩,
    by decide, by decide, fun _ _ _ => ⟨rfl, rfl⟩⟩

theorem vsrlb_zero (u : Block) : vsrlb u 0 = u := BitVec.ushiftRight_zero u

theorem vsllb_zero (u : Block) : vsllb u 0 = u := BitVec.shiftLeft_zero u

theorem vsrlb_of_ge (u : Block) {k : Nat} (hk : 16 ≤ k) : vsrlb u k = 0 :=
  BitVec.ushiftRight_eq_zero (by omega)

theorem vsllb_of_ge (u : Block) {k : Nat} (hk : 16 ≤ k) : vsllb u k = 0 :=
  BitVec.shiftLeft_eq_zero (by omega)

theorem blockByte_getLsbD (v : Block) (j i : Nat) :
    (blockByte v j).getLsbD i = (decide (i < 8) && v.getLsbD (8 * j + i)) :=
  BitVec.getLsbD_extractLsb' ..

/-- There is no byte 16 of a block, and what stands for one is 0. -/
theorem blockByte_of_ge (v : Block) {j : Nat} (hj : 16 ≤ j) : blockByte v j = 0 := by
  apply BitVec.eq_of_getLsbD_eq
  intro i _
  rw [blockByte_getLsbD, BitVec.getLsbD_of_ge v _ (by omega)]
  simp

theorem blockByte_vsrlb (u : Block) (k j : Nat) : blockByte (vsrlb u k) j = blockByte u (j + k) := by
  apply BitVec.eq_of_getLsbD_eq
  intro i _
  rw [blockByte_getLsbD, blockByte_getLsbD, vsrlb, BitVec.getLsbD_ushiftRight,
    show 8 * k + (8 * j + i) = 8 * (j + k) + i by omega]

theorem blockByte_vsllb (u : Block) {k j : Nat} (hj : j < 16) (hk : k ≤ j) :
    blockByte (vsllb u k) j = blockByte u (j - k) := by
  apply BitVec.eq_of_getLsbD_eq
  intro i hi
  rw [blockByte_getLsbD, blockByte_getLsbD, vsllb, BitVec.getLsbD_shiftLeft,
    show 8 * j + i - 8 * k = 8 * (j - k) + i by omega]
  simp [show 8 * j + i < 128 by omega, show ¬ 8 * j + i < 8 * k by omega]

/-- Zeros enter below byte `k`. -/
theorem blockByte_vsllb_of_lt (u : Block) {k j : Nat} (hk : j < k) : blockByte (vsllb u k) j = 0 := by
  apply BitVec.eq_of_getLsbD_eq
  intro i hi
  rw [blockByte_getLsbD, vsllb, BitVec.getLsbD_shiftLeft]
  simp [show 8 * j + i < 8 * k by omega]

/-- Settles O7: each byte comes from the byte `k` places away, or from outside the block. -/
theorem byteShiftsMoveWholeBytes : Obligations.ByteShiftsMoveWholeBytes := by
  refine ⟨fun u k => ⟨rfl, rfl, fun j hj => ⟨?_, ?_⟩⟩, fun u => ⟨vsrlb_zero u, vsllb_zero u⟩,
    fun u _ hk => ⟨vsrlb_of_ge u hk, vsllb_of_ge u hk⟩, by decide, by decide, fun _ _ _ => ⟨rfl, rfl⟩⟩
  · rw [blockByte_vsrlb]
    split
    · rfl
    · exact blockByte_of_ge u (by omega)
  · split
    · next hk => exact blockByte_vsllb u hj hk
    · next hk => exact blockByte_vsllb_of_lt u (by omega)

/-- Settles O8: every operation of the family is one write of a working register. -/
theorem laneOperationsWriteOnlyTheirResult : Obligations.LaneOperationsWriteOnlyTheirResult := by
  intro s dst u w k
  have hwrite (e : Block) := setVReg_setsOnly s dst e
  exact ⟨hwrite _, hwrite _, hwrite _, hwrite _, hwrite _, hwrite _, rfl, fun _ => rfl⟩

end Sys2Proof.Machine
end

section
/-! RECUR as a value: its closed form lane by lane, and its linearity over GF(2) (41_recurrence.md R120, R121). -/

namespace Sys2Proof.Machine

/-- Settles O9: the closed form, and the closed form with each operation's result read lane by lane. -/
theorem recurLaneByLane : Obligations.RecurLaneByLane := by
  refine fun p => ⟨fun a b c d => recurValue_eq p a b c d, fun a b c d l hl => ?_, rfl, rfl, rfl, rfl⟩
  have hclosed : recurValue p a b c d = vxor (vxor (vxor (vxor a (vsllb a p.sl2))
      (vand (vsrl32 b p.sr1) (maskOf p))) (vsrlb c p.sr2)) (vsll32 d p.sl1) := recurValue_eq p a b c d
  simp only [hclosed, lane_vxor, lane_vand, lane_vsrl32 b p.sr1 hl, lane_vsll32 d p.sl1 hl, lane_maskOf p hl]

theorem vsrlb_xor (u w : Block) (k : Nat) : vsrlb (u ^^^ w) k = vsrlb u k ^^^ vsrlb w k :=
  BitVec.ushiftRight_xor_distrib u w (8 * k)

theorem vsllb_xor (u w : Block) (k : Nat) : vsllb (u ^^^ w) k = vsllb u k ^^^ vsllb w k :=
  BitVec.shiftLeft_xor_distrib u w (8 * k)

theorem lane_xor (u w : Block) (l : Nat) : lane (u ^^^ w) l = lane u l ^^^ lane w l := lane_vxor u w l

theorem vsrl32_xor (u w : Block) (k : Nat) : vsrl32 (u ^^^ w) k = vsrl32 u k ^^^ vsrl32 w k :=
  eq_of_lanes fun l hl => by
    simp only [lane_xor, lane_vsrl32 _ k hl, BitVec.ushiftRight_xor_distrib]

theorem vsll32_xor (u w : Block) (k : Nat) : vsll32 (u ^^^ w) k = vsll32 u k ^^^ vsll32 w k :=
  eq_of_lanes fun l hl => by
    simp only [lane_xor, lane_vsll32 _ k hl, BitVec.shiftLeft_xor_distrib]

theorem vand_xor (u w m : Block) : vand (u ^^^ w) m = vand u m ^^^ vand w m :=
  BitVec.eq_of_getLsbD_eq fun i _ => by
    simp only [vand, BitVec.getLsbD_and, BitVec.getLsbD_xor, Bool.and_xor_distrib_right]

/-- Each term of the closed form is linear, and a XOR of linear terms is linear. -/
theorem recurValue_xor (p : ParameterSet) (a b c d a' b' c' d' : Block) :
    recurValue p (a ^^^ a') (b ^^^ b') (c ^^^ c') (d ^^^ d') =
      recurValue p a b c d ^^^ recurValue p a' b' c' d' := by
  have hmask (u w : Block) := vand_xor u w (maskOf p)
  unfold vand at hmask
  simp only [recurValue_eq, recurClosed, vsllb_xor, vsrlb_xor, vsrl32_xor, vsll32_xor, hmask]
  ac_rfl

/-- A linear function is 0 on zeros. -/
theorem recurValue_zero (p : ParameterSet) : recurValue p 0 0 0 0 = 0 := by
  have h := recurValue_xor p 0 0 0 0 0 0 0 0
  simp only [BitVec.xor_self] at h
  exact h

/-- Settles O10. -/
theorem recurIsLinear : Obligations.RecurIsLinear := ⟨recurValue_xor, recurValue_zero⟩

end Sys2Proof.Machine
end

section
/-! RECUR as an instruction (41_recurrence.md R120, 30_encoding.md R88). -/

namespace Sys2Proof.Machine

/-- The registers that RECUR does not work in keep their values. -/
theorem recurOp_get_other (p : ParameterSet) (d : Datapath) {r : VReg} (hx : r ≠ .x) (hy : r ≠ .y)
    (hz : r ≠ .z) (hv : r ≠ .v) : (recurOp p d).1.get r = d.get r := by
  simp only [recurOp, Datapath.get_set_other _ _ hx, Datapath.get_set_other _ _ hy,
    Datapath.get_set_other _ _ hz, Datapath.get_set_other _ _ hv]

/-- The nine micro-operations are the register writes of `recurOp` in its order, then the write of the result. -/
theorem runInstrs_recur (s : State) (dst : VReg) :
    runInstrs
      [.vsrl32 .y (.reg .b) s.cfg.params.sr1, .vsrlb .z (.reg .c) s.cfg.params.sr2,
        .vsll32 .v (.reg .d) s.cfg.params.sl1, .vxor .z (.reg .z) (.reg .a), .vxor .z (.reg .z) (.reg .v),
        .vsllb .x (.reg .a) s.cfg.params.sl2, .vand .y (.reg .y) .mask, .vxor .z (.reg .z) (.reg .x),
        .vxor dst (.reg .z) (.reg .y)] s = exec (.recur dst) s := by
  simp only [runInstrs, exec, execVsrl32, execVsrlb, execVsll32, execVxor, execVsllb, execVand, execRecur, recurOp,
    readSrc, setVReg, Datapath.get]

/-- RECUR answers a next state in which the working registers alone have changed. -/
theorem exec_recur (s : State) (dst : VReg) :
    exec (.recur dst) s =
      .next { s with dp := (recurOp s.cfg.params s.dp).1.set dst (recurOp s.cfg.params s.dp).2 } := rfl

/-- Settles O11: RECUR is `recurOp` and one more write, of the destination. -/
theorem recurCompletesAndRunsItsMicroOperations : Obligations.RecurCompletesAndRunsItsMicroOperations := by
  intro s dst
  obtain ⟨-, -, -, -, -, -, hw, hinner⟩ := recurOp_frame s.cfg.params s.dp
  refine ⟨⟨_, exec_recur s dst, ?_, fun r hdst hx hy hz hv => ?_, ?_, ?_, rfl⟩, runInstrs_recur s dst⟩
  · rw [Datapath.get_set_same, recurOp_value, recurValue_eq]
  · rw [Datapath.get_set_other _ _ hdst, recurOp_get_other _ _ hx hy hz hv]
  · exact (Datapath.set_w _ _ _).trans hw
  · exact (Datapath.set_inner _ _ _).trans hinner

end Sys2Proof.Machine
end

section
/-! REGEN round by round: what the state memory and r1, r2 are before each round (41_recurrence.md R122). -/

namespace Sys2Proof.Machine

/-- A legal POS1 reaches at most the last block (00_scope.md R10). -/
theorem pos1_le_of_wf {c : Config} (h : c.wf) : c.params.pos1 ≤ c.nblk - 1 := h.1.1.2

/-- What a round of REGEN that goes through has read and written. -/
theorem regenRound_cases {p : ParameterSet} {n i : Nat} {d : Datapath} {m : Memory} {q : Datapath × Memory}
    (h : regenRound p n i d m = some q) :
    ∃ av bv, m.block i = some av ∧ m.block (partner n p.pos1 i) = some bv ∧
      q.2.block i = some (recurValue p av bv d.r1 d.r2) ∧ (∀ k, k ≠ i → q.2.block k = m.block k) ∧
      q.1.r1 = d.r2 ∧ some q.1.r2 = q.2.block i ∧ q.1.w = d.w ∧ q.1.inner = d.inner := by
  cases ha : m.block i with
  | none => simp [regenRound, ha] at h
  | some av =>
    cases hb : m.block (partner n p.pos1 i) with
    | none => simp [regenRound, ha, hb] at h
    | some bv =>
      obtain ⟨d', hround, hr1, hr2, hkept⟩ := regenRound_of_set p d ha hb
      rw [hround] at h
      cases h
      refine ⟨av, bv, rfl, rfl, ?_, fun k hk => Memory.block_setBlock_other _ _ hk, hr1, ?_, hkept⟩
      · rw [recurValue_eq, Memory.block_setBlock_same]
      · rw [hr2, Memory.block_setBlock_same]

/-- The last of a number of rounds runs on what the rounds before it leave. -/
theorem regenLoop_succ (p : ParameterSet) (n : Nat) :
    ∀ (cnt i : Nat) (d : Datapath) (m : Memory),
      regenLoop p n (cnt + 1) i d m =
        (regenLoop p n cnt i d m).bind fun q => regenRound p n (i + cnt) q.1 q.2
  | 0, i, d, m => by
    cases hround : regenRound p n i d m <;> simp [regenLoop, hround]
  | cnt + 1, i, d, m => by
    cases hround : regenRound p n i d m with
    | none => simp [regenLoop, hround]
    | some q =>
      have ih := regenLoop_succ p n cnt (i + 1) q.1 q.2
      rw [Nat.add_right_comm i 1 cnt] at ih
      rw [regenLoop, regenLoop, hround]
      exact ih

/-- The working registers and SM before round `k` of REGEN's loop. -/
def beforeRound (p : ParameterSet) (n : Nat) (d : Datapath) (m : Memory) (k : Nat) : Datapath × Memory :=
  (regenLoop p n k 0 d m).getD (d, m)

section
variable {p : ParameterSet} {n : Nat} {m : Memory} (hp : p.pos1 ≤ n - 1) (hm : m.full n = true) (d : Datapath)
include hp hm

theorem regenLoop_eq_beforeRound {k : Nat} (hk : k ≤ n) :
    regenLoop p n k 0 d m = some (beforeRound p n d m k) := by
  obtain ⟨d', m', hloop, -⟩ := regenLoop_of_full p hp k 0 d m (by omega) hm
  rw [beforeRound, hloop, Option.getD_some]

/-- Round `k` leads from what stands before it to what stands before round `k + 1`. -/
theorem regenRound_beforeRound {k : Nat} (hk : k < n) :
    regenRound p n k (beforeRound p n d m k).1 (beforeRound p n d m k).2 =
      some (beforeRound p n d m (k + 1)) := by
  have hsucc := regenLoop_succ p n k 0 d m
  rw [regenLoop_eq_beforeRound hp hm d hk, regenLoop_eq_beforeRound hp hm d hk.le, Nat.zero_add] at hsucc
  exact hsucc.symm

/-- No round works in w or inner. -/
theorem beforeRound_w_inner {k : Nat} (hk : k ≤ n) :
    (beforeRound p n d m k).1.w = d.w ∧ (beforeRound p n d m k).1.inner = d.inner := by
  induction k with
  | zero => exact ⟨rfl, rfl⟩
  | succ k ih =>
    obtain ⟨_, _, -, -, -, -, -, -, hw, hinner⟩ := regenRound_cases (regenRound_beforeRound hp hm d hk)
    rw [hw, hinner]
    exact ih (Nat.le_of_succ_le hk)

/-- Over a state memory whose blocks are all set the loop is a chain of `n` rounds. -/
theorem regenLoop_rounds :
    ∃ T : Nat → Datapath × Memory, T 0 = (d, m) ∧
      (∀ k, k < n → regenRound p n k (T k).1 (T k).2 = some (T (k + 1))) ∧
      regenLoop p n n 0 d m = some (T n) ∧ (T n).1.w = d.w ∧ (T n).1.inner = d.inner :=
  ⟨beforeRound p n d m, rfl, fun _ hk => regenRound_beforeRound hp hm d hk,
    regenLoop_eq_beforeRound hp hm d (Nat.le_refl n), beforeRound_w_inner hp hm d (Nat.le_refl n)⟩

end

/-- Settles O12: `M`, `R1` and `R2` are the parts of the chain of rounds that starts from r1 and r2 as REGEN loads
them. -/
theorem regenIsTheInPlaceLoop : Obligations.RegenIsTheInPlaceLoop := by
  intro s hwf hset
  have hn := mexp_nblk_ge s.cfg
  have hpos := pos1_le_of_wf hwf
  obtain ⟨v1, h1⟩ := hset (s.cfg.nblk - 2) (by omega)
  obtain ⟨v2, h2⟩ := hset (s.cfg.nblk - 1) (by omega)
  obtain ⟨T, hT0, hround, hloop, hw, hinner⟩ :=
    regenLoop_rounds hpos (Memory.full_iff.2 hset) { s.dp with r1 := v1, r2 := v2 }
  have hop : regenOp s = some { s with
      sm := (T s.cfg.nblk).2, dp := (T s.cfg.nblk).1, cursor := 0, regenCount := s.regenCount + 1 } := by
    simp only [regenOp, h1, h2, hloop]
  refine ⟨fun i => (T i).2, fun i => (T i).1.r1, fun i => (T i).1.r2, (T s.cfg.nblk).1,
    by simp only [hT0], by simp only [h1, hT0], by simp only [h2, hT0], fun i hi => ?_, rfl, rfl, hw, hinner,
    exec_regen_of_op hop⟩
  obtain ⟨a, b, ha, hb, hnew, hother, hr1, hr2, -⟩ := regenRound_cases (hround i hi)
  rw [partner_eq_mod hi hpos] at hb
  exact ⟨a, b, ha, hb, hnew, hother, hr1, hr2⟩

end Sys2Proof.Machine
end

section
/-! REGEN as the block sequence X_0, X_1, ... of 41_recurrence.md R125: SM is a window that moves along it. -/

namespace Sys2Proof.Machine

/-- SM, r1 and r2 before round `i`: SM holds the terms from `i` on, each in the block of its index modulo N, and r1
and r2 hold the last two of them. -/
structure HoldsWindow (n : Nat) (X : Nat → Block) (i : Nat) (m : Memory) (r1 r2 : Block) : Prop where
  block : ∀ j, i ≤ j → j < i + n → m.block (j % n) = some (X j)
  r1 : r1 = X (i + n - 2)
  r2 : r2 = X (i + n - 1)

/-- A round puts the next term in the place of the oldest one: block `i` is the block of `i` and of `i + n`, and of no
index between them. -/
theorem HoldsWindow.next {p : ParameterSet} {n i : Nat} {X : Nat → Block} {m m' : Memory} {a b r1 r2 : Block}
    (h : HoldsWindow n X i m r1 r2) (hi : i < n) (hpos : p.pos1 ≤ n - 1)
    (hX : X (i + n) = recurValue p (X i) (X (i + p.pos1)) (X (i + n - 2)) (X (i + n - 1)))
    (ha : m.block i = some a) (hb : m.block ((i + p.pos1) % n) = some b)
    (hnew : m'.block i = some (recurValue p a b r1 r2)) (hother : ∀ k, k ≠ i → m'.block k = m.block k) :
    HoldsWindow n X (i + 1) m' r2 (recurValue p a b r1 r2) := by
  obtain ⟨hblock, rfl, rfl⟩ := h
  have himod : i % n = i := Nat.mod_eq_of_lt hi
  obtain rfl : a = X i := Option.some.inj (by rw [← ha, ← hblock i (by omega) (by omega), himod])
  obtain rfl : b = X (i + p.pos1) := Option.some.inj (by rw [← hb, hblock _ (by omega) (by omega)])
  rw [← hX] at hnew ⊢
  refine ⟨fun j hlo hhi => ?_, congrArg X (by omega), congrArg X (by omega)⟩
  by_cases hj : j = i + n
  · rw [hj, Nat.add_mod_right, himod, hnew]
  · have hne : j % n ≠ i := by
      by_cases hjn : j < n
      · rw [Nat.mod_eq_of_lt hjn]; omega
      · rw [Nat.mod_eq_sub_mod (by omega), Nat.mod_eq_of_lt (by omega)]; omega
    rw [hother _ hne, hblock j (by omega) (by omega)]

/-- Settles O13: after N rounds SM holds the window from N on. -/
theorem regenYieldsTheNextGeneration : Obligations.RegenYieldsTheNextGeneration := by
  intro s X hwf hsm hX
  have hn := mexp_nblk_ge s.cfg
  obtain ⟨M, R1, R2, dp, hM0, hR1, hR2, hround, -, -, -, -, hexec⟩ :=
    regenIsTheInPlaceLoop s hwf fun k hk => ⟨X k, hsm k hk⟩
  have hstart : HoldsWindow s.cfg.nblk X 0 (M 0) (R1 0) (R2 0) := by
    refine ⟨fun j _ hj => ?_, ?_, ?_⟩
    · rw [Nat.zero_add] at hj
      rw [Nat.mod_eq_of_lt hj, hM0, hsm j hj]
    · rw [hsm _ (by omega)] at hR1
      rw [Nat.zero_add, Option.some.inj hR1]
    · rw [hsm _ (by omega)] at hR2
      rw [Nat.zero_add, Option.some.inj hR2]
  have hall (i : Nat) (hi : i ≤ s.cfg.nblk) : HoldsWindow s.cfg.nblk X i (M i) (R1 i) (R2 i) ∧
      ∀ k, s.cfg.nblk ≤ k → (M i).block k = s.sm.block k := by
    induction i with
    | zero => exact ⟨hstart, fun k _ => by rw [hM0]⟩
    | succ i ih =>
      obtain ⟨hwindow, habove⟩ := ih (Nat.le_of_succ_le hi)
      obtain ⟨a, b, ha, hb, hnew, hother, hr1, hr2⟩ := hround i hi
      rw [hnew] at hr2
      rw [hr1, Option.some.inj hr2]
      exact ⟨hwindow.next hi (pos1_le_of_wf hwf) (hX i hi) ha hb hnew hother,
        fun k hk => by rw [hother k (by omega), habove k hk]⟩
  obtain ⟨hwindow, habove⟩ := hall s.cfg.nblk (Nat.le_refl _)
  refine ⟨M s.cfg.nblk, dp, hexec, fun i hi => ?_, habove⟩
  have hblock := hwindow.block (s.cfg.nblk + i) (by omega) (by omega)
  rwa [Nat.add_mod_left, Nat.mod_eq_of_lt hi] at hblock

/-- Settles O14: the sequence that is 0 throughout meets the recurrence. -/
theorem regenKeepsTheZeroState : Obligations.RegenKeepsTheZeroState := by
  intro s hwf hzero
  obtain ⟨m, dp, hexec, hblock, -⟩ := regenYieldsTheNextGeneration s (fun _ => 0) hwf hzero
    fun _ _ => (recurValue_zero _).symm
  exact ⟨_, hexec, hblock⟩

end Sys2Proof.Machine
end

section
/-! REGEN_COUNT over the commands (41_recurrence.md R126, R127, 10_state.md R46). -/

namespace Sys2Proof.Machine

/-- The regeneration check counts a pass exactly when the cursor has reached its limit. -/
theorem regenFrom_regenCount {limit : Nat} {s u : State} (h : regenFrom limit s = some u) :
    u.regenCount = if s.cursor ≥ limit then s.regenCount + 1 else s.regenCount := by
  unfold regenFrom at h
  split at h
  · next hc => rw [if_pos hc, regenOp_frame h]
  · next hc => cases h; rw [if_neg hc]

theorem pop32_regenCount {s t : State} (h : pop32 s = some t) :
    t.regenCount = if s.cursor ≥ s.cfg.nwords then s.regenCount + 1 else s.regenCount := by
  unfold pop32 at h
  split at h
  · next hu =>
    have hcount := regenFrom_regenCount hu
    split at h
    · cases h; exact hcount
    · cases h
  · cases h

theorem pop64_regenCount {s t : State} (h : pop64 s = some t) :
    t.regenCount = if s.cursor ≥ s.cfg.nwords - 1 then s.regenCount + 1 else s.regenCount := by
  unfold pop64 at h
  split at h
  · next hu =>
    have hcount := regenFrom_regenCount hu
    split at h
    · cases h; exact hcount
    · cases h
  · cases h

theorem seedOp_regenCount {s t : State} (h : seedOp s = some t) : t.regenCount = s.regenCount := by
  obtain ⟨m, dp, hop, -⟩ := seedOp_spec s
  rw [hop] at h
  cases h
  rfl

/-- Settles O16: SEED counts none, an unseeded read ends with an error, and a seeded one counts in its check. -/
theorem onlyExhaustedReadsRegenerate : Obligations.OnlyExhaustedReadsRegenerate := by
  intro s t
  refine ⟨fun h => seedOp_regenCount (op_of_exec_seed h), fun h => ?_, fun h => ?_⟩
  · cases hs : s.seeded with
    | true => simpa using pop32_regenCount (pop_of_exec_next32 hs h)
    | false =>
      rw [(exec_next_unseeded hs).1] at h
      cases h
      simp
  · cases hs : s.seeded with
    | true => simpa using pop64_regenCount (pop_of_exec_next64 hs h)
    | false =>
      rw [(exec_next_unseeded hs).2] at h
      cases h
      simp

end Sys2Proof.Machine
end

section
/-! EXPAND block by block: block `k` of an expanded seed holds the words from `4 * k` on (42_seed_certify.md R142,
R143). -/

namespace Sys2Proof.Machine

/-- Block `k` of an expanded seed (42_seed_certify.md R142). -/
def seedBlock (seed : Word32) (k : Nat) : Block :=
  lanes (seedWord seed (4 * k)) (seedWord seed (4 * k + 1)) (seedWord seed (4 * k + 2)) (seedWord seed (4 * k + 3))

theorem lane_seedBlock (seed : Word32) (k : Nat) {l : Nat} (hl : l < 4) :
    lane (seedBlock seed k) l = seedWord seed (4 * k + l) := by
  rcases show l = 0 ∨ l = 1 ∨ l = 2 ∨ l = 3 by omega with rfl | rfl | rfl | rfl
  · exact lane_lanes_zero _ _ _ _
  · exact lane_lanes_one _ _ _ _
  · exact lane_lanes_two _ _ _ _
  · exact lane_lanes_three _ _ _ _

theorem expandOp_block (seed : Word32) (s : State) {k : Nat} (hk : k < s.cfg.nblk) :
    (expandOp seed s).sm.block k = some (seedBlock seed k) := by
  obtain ⟨m, dp, hop, hblock, -⟩ := expandOp_spec seed s
  rw [hop]
  exact hblock k hk

theorem expandOp_block_of_ge (seed : Word32) (s : State) {k : Nat} (hk : s.cfg.nblk ≤ k) :
    (expandOp seed s).sm.block k = s.sm.block k := by
  obtain ⟨m, dp, hop, -, habove, -⟩ := expandOp_spec seed s
  rw [hop]
  exact habove k hk

/-- EXPAND completes in every state, and its next state is the old one but for SM and the working register w. -/
theorem exec_expand (seed : Word32) (s : State) :
    exec (.expand seed) s = .next { s with
      sm := (expandOp seed s).sm, dp := { s.dp with w := (expandOp seed s).dp.w } } := rfl

/-- Every word of SM after EXPAND is the word of its index in the expansion. -/
theorem expandOp_w32 (seed : Word32) (s : State) {p : Nat} (hp : p < s.cfg.nwords) :
    (expandOp seed s).sm.w32 p = some (seedWord seed p) := by
  have hW : s.cfg.nwords = 4 * s.cfg.nblk := rfl
  rw [Memory.w32, expandOp_block seed s (show p / 4 < s.cfg.nblk by omega), Option.map_some,
    lane_seedBlock seed _ (Nat.mod_lt p (by decide)), Nat.div_add_mod]

/-- Settles O17: the words are those of `seedWord`. -/
theorem expandFillsEveryWord : Obligations.ExpandFillsEveryWord := by
  intro s seed
  refine ⟨seedWord seed, (expandOp seed s).sm, (expandOp seed s).dp.w, rfl, fun t ht _ => ?_, exec_expand seed s,
    fun p => expandOp_w32 seed s, fun k => expandOp_block_of_ge seed s⟩
  obtain ⟨t, rfl⟩ := Nat.exists_eq_add_of_le' ht
  rfl

/-- Settles O18: lane `l` of block `k` is word `4 * k + l`, and each word is made from the one before it. -/
theorem seedChainRunsThroughLaneThree : Obligations.SeedChainRunsThroughLaneThree := by
  intro s t seed k v hexec hk hv
  cases hexec
  rw [expandOp_block seed s hk] at hv
  obtain rfl := Option.some.inj hv
  have hlane (l : Nat) (hl : l < 4) := lane_seedBlock seed k hl
  rw [hlane 0 (by decide), hlane 1 (by decide), hlane 2 (by decide), hlane 3 (by decide)]
  refine ⟨?_, rfl, rfl, rfl, fun hk' => ⟨_, expandOp_block seed s hk', ?_⟩⟩
  · rintro rfl
    rfl
  · exact lane_seedBlock seed (k + 1) (by decide)

end Sys2Proof.Machine
end

section
/-! The parity of a population count: it is additive over XOR. -/

namespace Sys2Proof.Machine

/-- The positions where exactly one of two predicates holds are as many, modulo two, as both counts together. -/
theorem countP_xor_mod_two {α : Type} (p q : α → Bool) (l : List α) :
    (l.countP fun x => p x ^^ q x) % 2 = (l.countP p + l.countP q) % 2 := by
  induction l with
  | nil => rfl
  | cons x l ih =>
    simp only [List.countP_cons]
    cases p x <;> cases q x <;> simp <;> omega

theorem popcount_xor (u w : Word32) : popcount (u ^^^ w) % 2 = (popcount u + popcount w) % 2 := by
  simp only [popcount, BitVec.getLsbD_xor]
  exact countP_xor_mod_two _ _ _

theorem popcount_bit {j : Nat} (hj : j < 32) : popcount (1#32 <<< j) = 1 := by
  decide +revert

end Sys2Proof.Machine
end

section
/-! The bit that CERTIFY toggles on even parity: the lowest set bit of the first non-zero parity constant
(42_seed_certify.md R144). -/

namespace Sys2Proof.Machine

/-- Lane `l` is the first with a non-zero parity constant, and `j` is the lowest set bit of that constant. -/
structure FirstParityBit (p : ParameterSet) (l j : Nat) : Prop where
  lane_lt : l < 4
  bit_lt : j < 32
  zero_before : ∀ l', l' < l → paramParity p l' = 0
  bit_set : (paramParity p l).getLsbD j = true
  bit_lowest : ∀ j', j' < j → (paramParity p l).getLsbD j' = false

theorem lowestSetBit_eq_some_iff {v : Word32} {j : Nat} :
    lowestSetBit v = some j ↔ v.getLsbD j = true ∧ j < 32 ∧ ∀ j', j' < j → v.getLsbD j' = false := by
  simp [lowestSetBit]

theorem lowestSetBit_zero : lowestSetBit 0 = none := by decide

theorem exists_lowestSetBit {v : Word32} (hv : v ≠ 0) : ∃ j, lowestSetBit v = some j := by
  refine Option.ne_none_iff_exists'.1 fun hnone => hv (BitVec.eq_of_getLsbD_eq fun i hi => ?_)
  simpa using List.find?_range_eq_none.1 hnone i hi

/-- A legal ParameterSet has such a bit (00_scope.md R10). -/
theorem exists_firstParityBit {p : ParameterSet} {n : Nat} (hp : p.wf n) : ∃ l j, FirstParityBit p l j := by
  obtain ⟨-, -, -, -, -, hparity⟩ := hp
  have hlane : ∃ l, l < 4 ∧ paramParity p l ≠ 0 := by
    by_contra hnone
    push Not at hnone
    exact hparity ⟨hnone 0 (by decide), hnone 1 (by decide), hnone 2 (by decide), hnone 3 (by decide)⟩
  obtain ⟨hl, hne⟩ := Nat.find_spec hlane
  obtain ⟨j, hj⟩ := exists_lowestSetBit hne
  obtain ⟨hset, hj32, hlowest⟩ := lowestSetBit_eq_some_iff.1 hj
  exact ⟨_, j, hl, hj32, fun l' hl' => by_contra fun h => Nat.find_min hlane hl' ⟨hl'.trans hl, h⟩, hset, hlowest⟩

/-- It is the bit that the model's search over the lanes finds. -/
theorem FirstParityBit.certifyTarget_eq {p : ParameterSet} {l j : Nat} (h : FirstParityBit p l j) :
    certifyTarget p = some (l, j) := by
  have hsplit : List.range 4 = List.range l ++ l :: List.range' (l + 1) (3 - l) := by
    rcases show l = 0 ∨ l = 1 ∨ l = 2 ∨ l = 3 by have := h.lane_lt; omega with rfl | rfl | rfl | rfl <;> rfl
  refine List.findSome?_eq_some_iff.2 ⟨_, l, _, hsplit, ?_, fun l' hl' => ?_⟩
  · rw [lowestSetBit_eq_some_iff.2 ⟨h.bit_set, h.bit_lt, h.bit_lowest⟩, Option.map_some]
  · rw [h.zero_before l' (List.mem_range.1 hl'), lowestSetBit_zero, Option.map_none]

theorem certifyBlock_of_odd {p : ParameterSet} {v : Block} (hodd : popcount (innerOf p v) % 2 = 1) :
    certifyBlock p v = v :=
  if_pos hodd

theorem certifyBlock_of_even {p : ParameterSet} {v : Block} {l j : Nat} (heven : popcount (innerOf p v) % 2 = 0)
    (htarget : certifyTarget p = some (l, j)) :
    certifyBlock p v = setLane v l (lane v l ^^^ 1#32 <<< j) := by
  rw [certifyBlock, if_neg (by omega), htarget]

/-- Settles O19: CERTIFY replaces block 0 by `certifyBlock` of it, and a legal ParameterSet has a bit to toggle. -/
theorem certifyFlipsTheLowestParityBitOnEvenParity : Obligations.CertifyFlipsTheLowestParityBitOnEvenParity := by
  intro s v hv hwf
  obtain ⟨l, j, hbit⟩ := exists_firstParityBit hwf.1
  refine ⟨_, certifyBlock s.cfg.params v, _, exec_certify_of_op (certifyOp_of_set hv), rfl,
    Memory.block_setBlock_same _ _ _, fun k hk => Memory.block_setBlock_other _ _ hk, certifyBlock_of_odd,
    fun heven => ⟨l, j, hbit.lane_lt, hbit.bit_lt, hbit.zero_before, hbit.bit_set, hbit.bit_lowest, fun q hq => ?_⟩⟩
  rw [certifyBlock_of_even heven hbit.certifyTarget_eq, lane_setLane _ _ hq]
  split
  · next hql => rw [hql]
  · rfl

end Sys2Proof.Machine
end

section
/-! CERTIFY on even parity as the XOR with one bit of the block, and the parity after it (42_seed_certify.md R145,
R147). -/

namespace Sys2Proof.Machine

/-- Toggling bits of one lane is the XOR with a block that is 0 in the other lanes. -/
theorem setLane_xor (v : Block) (l : Nat) (e : Word32) : setLane v l (lane v l ^^^ e) = v ^^^ setLane 0 l e :=
  eq_of_lanes fun q hq => by
    rw [lane_xor, lane_setLane _ _ hq, lane_setLane _ _ hq]
    split
    · next hql => rw [hql]
    · rw [lane_zero, BitVec.xor_zero]

theorem innerOf_xor (p : ParameterSet) (u w : Block) : innerOf p (u ^^^ w) = innerOf p u ^^^ innerOf p w := by
  have hand (a b c : Word32) : (a ^^^ b) &&& c = a &&& c ^^^ b &&& c :=
    BitVec.eq_of_getLsbD_eq fun i _ => by
      simp only [BitVec.getLsbD_and, BitVec.getLsbD_xor, Bool.and_xor_distrib_right]
  simp only [innerOf, lane_xor, hand]
  ac_rfl

/-- A block that is 0 outside one lane meets the parity constant of that lane only. -/
theorem innerOf_setLane_zero (p : ParameterSet) {l : Nat} (hl : l < 4) (e : Word32) :
    innerOf p (setLane 0 l e) = e &&& paramParity p l := by
  have hzero (q : Nat) : lane 0#128 q = 0#32 := lane_zero q
  rcases show l = 0 ∨ l = 1 ∨ l = 2 ∨ l = 3 by omega with rfl | rfl | rfl | rfl <;>
    simp [innerOf, lane_setLane, hzero]

theorem bit_and_of_getLsbD {v : Word32} {j : Nat} (h : v.getLsbD j = true) : 1#32 <<< j &&& v = 1#32 <<< j := by
  rw [BitVec.and_comm]
  exact (BitVec.and_twoPow v j).trans (if_pos h)

/-- The toggled bit meets its own constant in one bit, so it changes the parity of `inner`. -/
theorem FirstParityBit.popcount_innerOf_bit {p : ParameterSet} {l j : Nat} (h : FirstParityBit p l j) :
    popcount (innerOf p (setLane 0 l (1#32 <<< j))) = 1 := by
  rw [innerOf_setLane_zero p h.lane_lt, bit_and_of_getLsbD h.bit_set, popcount_bit h.bit_lt]

theorem popcount_innerOf_certifyBlock {p : ParameterSet} {n : Nat} (hp : p.wf n) (v : Block) :
    popcount (innerOf p (certifyBlock p v)) % 2 = 1 := by
  rcases Nat.mod_two_eq_zero_or_one (popcount (innerOf p v)) with heven | hodd
  · obtain ⟨l, j, hbit⟩ := exists_firstParityBit hp
    rw [certifyBlock_of_even heven hbit.certifyTarget_eq, setLane_xor, innerOf_xor, popcount_xor,
      hbit.popcount_innerOf_bit]
    omega
  · rw [certifyBlock_of_odd hodd, hodd]

/-- Settles O20: an odd parity stays, and on even parity the toggled bit makes it odd. -/
theorem certifiedParityIsOdd : Obligations.CertifiedParityIsOdd := fun _ v hwf hv =>
  ⟨_, _, exec_certify_of_op (certifyOp_of_set hv), Memory.block_setBlock_same _ _ _,
    popcount_innerOf_certifyBlock hwf.1 v⟩

/-- PARITY1 is odd in every row of the default table (00_scope.md R11, log entry 2). -/
theorem certifyTarget_defaultParams (m : Mexp) : certifyTarget (defaultParams m) = some (0, 0) := by
  cases m <;> decide

/-- Settles O21: bit 0 of lane 0 is bit 0 of the block. -/
theorem defaultTablesFlipBitZero : Obligations.DefaultTablesFlipBitZero := by
  intro m v heven
  have hone : setLane 0 0 (1#32 <<< 0) = 1 := by decide
  rw [certifyBlock_of_even heven (certifyTarget_defaultParams m), setLane_xor, hone]

end Sys2Proof.Machine
end

section
/-! SEED: EXPAND, the cursor, CERTIFY, `seeded` (42_seed_certify.md R140, R149). -/

namespace Sys2Proof.Machine

/-- SEED is CERTIFY of the expansion of DIN with the cursor at W, and then its completion. -/
theorem seedOp_of_certifyOp {s t : State}
    (h : certifyOp { expandOp s.din s with cursor := s.cfg.nwords } = some t) :
    seedOp s = some (complete .ok { t with seeded := true }) := by
  simp only [seedOp, h]

/-- Settles O22: block 0 is set after EXPAND, so that CERTIFY goes through and changes it only. -/
theorem seedExpandsThenCertifies : Obligations.SeedExpandsThenCertifies := by
  intro s
  have hN := mexp_nblk_ge s.cfg
  have hcert := certifyOp_of_set (s := { expandOp s.din s with cursor := s.cfg.nwords })
    (expandOp_block s.din s (k := 0) (by omega))
  refine ⟨_, _, rfl, exec_certify_of_op hcert, exec_seed_of_op (seedOp_of_certifyOp hcert), rfl, fun k hk => ?_⟩
  exact (Memory.block_setBlock_other _ _ (by omega)).trans (expandOp_block_of_ge s.din s hk)

/-- Block `k` of a seeded generator: that of the expansion, certified where it is block 0. -/
def seededBlock (p : ParameterSet) (seed : Word32) (k : Nat) : Block :=
  if k = 0 then certifyBlock p (seedBlock seed 0) else seedBlock seed k

theorem exec_seed_generator (s : State) :
    ∃ t, exec .seed s = .next t ∧ t.cursor = s.cfg.nwords ∧ t.seeded = true ∧
      ∀ k, k < s.cfg.nblk → t.sm.block k = some (seededBlock s.cfg.params s.din k) := by
  obtain ⟨m, dp, hop, hzero, hrest, -⟩ := seedOp_spec s
  refine ⟨_, exec_seed_of_op hop, rfl, rfl, fun k hk => ?_⟩
  by_cases hk0 : k = 0
  · rw [seededBlock, if_pos hk0, hk0]
    exact hzero
  · rw [seededBlock, if_neg hk0]
    exact hrest k (by omega) hk

/-- Settles O23: cursor and blocks of the seeded generator are given by the size, the ParameterSet and DIN. -/
theorem seedIsAFunctionOfTheSeed : Obligations.SeedIsAFunctionOfTheSeed := by
  intro s s' hmexp hparams hdin
  obtain ⟨t, hexec, hcursor, hseeded, hblock⟩ := exec_seed_generator s
  obtain ⟨t', hexec', hcursor', hseeded', hblock'⟩ := exec_seed_generator s'
  have hN : s'.cfg.nblk = s.cfg.nblk := by rw [nblk_eq_tableBlocks, nblk_eq_tableBlocks, hmexp]
  rw [hN, ← hparams, ← hdin] at hblock'
  refine ⟨t, t', hexec, hexec', ?_, hseeded, hseeded', fun k hk => ⟨?_, _, hblock k hk⟩⟩
  · rw [hcursor, hcursor', Config.nwords, Config.nwords, hN]
  · rw [hblock k hk, hblock' k hk]

end Sys2Proof.Machine
end

section
/-! What a read on a seeded engine does, in the terms of the words it hands out (43_extraction.md R160, R161). -/

namespace Sys2Proof.Machine

/-- NEXT32 on a seeded engine hands out the word at the cursor that the regeneration check leaves. -/
theorem pop32_of_regenFrom {s u : State} (h : regenFrom s.cfg.nwords s = some u) {r : Word32}
    (hr : u.sm.w32 u.cursor = some r) :
    pop32 s = some (complete .ok { u with cursor := u.cursor + 1, dout0 := r, dout1 := 0 }) := by
  simp only [pop32, h, hr]

/-- Whatever REGEN answers comes from the operation. -/
theorem op_of_exec_regen {s u : State} (h : exec .regen s = .next u) : regenOp s = some u := by
  simp only [exec, execRegen, orUnset] at h
  split at h
  · next hop => cases h; exact hop
  · cases h

theorem regenOp_cursor {s u : State} (h : regenOp s = some u) : u.cursor = 0 := by
  rw [regenOp_frame h]

/-- The check of an exhausted generation leaves what REGEN answers. -/
theorem regenFrom_of_exec_regen {limit : Nat} {s u : State} (hcursor : s.cursor ≥ limit)
    (h : exec .regen s = .next u) : regenFrom limit s = some u ∧ u.cursor = 0 :=
  ⟨(if_pos hcursor).trans (op_of_exec_regen h), regenOp_cursor (op_of_exec_regen h)⟩

/-- Settles O25: the word read is the one at the cursor of `s`, or at cursor 0 of the state that REGEN answers. -/
theorem next32PopsOneWord : Obligations.Next32PopsOneWord := by
  intro s
  refine ⟨fun hs => (exec_next_unseeded hs).1, fun r hs hcursor hr => ?_, fun u r hs hcursor hu hr => ?_⟩
  · exact exec_next32_of_pop hs (pop32_of_regenFrom (if_neg (Nat.not_le.2 hcursor)) hr)
  · obtain ⟨hregen, h0⟩ := regenFrom_of_exec_regen hcursor hu
    rw [exec_next32_of_pop hs (pop32_of_regenFrom hregen (by rwa [h0])), h0]
    rfl

/-- Settles O26: the pair read starts at the cursor of `s`, or at cursor 0 of the state that REGEN answers. -/
theorem next64PopsTwoWords : Obligations.Next64PopsTwoWords := by
  intro s
  refine ⟨fun hs => (exec_next_unseeded hs).2, fun lo hi hs hcursor hlo hhi => ?_,
    fun u lo hi hs hcursor hu hlo hhi => ?_⟩
  · exact exec_next64_of_pop hs (pop64_of_regenFrom (if_neg (Nat.not_le.2 hcursor)) hlo hhi)
  · obtain ⟨hregen, h0⟩ := regenFrom_of_exec_regen hcursor hu
    rw [exec_next64_of_pop hs (pop64_of_regenFrom hregen (by rwa [h0]) (by rwa [h0])), h0]
    rfl

/-- A pair that reads is made of the two words that its positions read as. -/
theorem Memory.w32_of_w64 {m : Memory} {p : Nat} {r : Word64} (h : m.w64 p = some r) :
    m.w32 p = some (r.extractLsb' 0 32) ∧ m.w32 (p + 1) = some (r.extractLsb' 32 32) := by
  have hpair := h
  unfold Memory.w64 at h
  split at h
  · next lo hi hlo hhi =>
    obtain ⟨r', hr', rfl, rfl⟩ := Memory.w64_of_w32 hlo hhi
    obtain rfl := Option.some.inj (hpair.symm.trans hr')
    exact ⟨hlo, hhi⟩
  · cases h

/-- Settles O28: the pair is read at the cursor that the regeneration check leaves, from the SM it leaves. -/
theorem next64HalvesComeFromOneGeneration : Obligations.Next64HalvesComeFromOneGeneration := by
  intro s t _ hs h
  have hpop := pop_of_exec_next64 hs h
  unfold pop64 at hpop
  split at hpop
  · next u _ =>
    split at hpop
    · next r hr =>
      cases hpop
      exact ⟨u.cursor, rfl, Memory.w32_of_w64 hr⟩
    · cases hpop
  · cases hpop

end Sys2Proof.Machine
end

section
/-! Reads where every block is set: they complete, and the cursor stays in range (43_extraction.md R160 to
R162, R166). -/

namespace Sys2Proof.Machine

/-- A legal configuration, seeded, with all its blocks set: the states whose reads complete. -/
structure CanRead (s : State) : Prop where
  config : s.cfg.wf
  seeded : s.seeded = true
  full : s.sm.full s.cfg.nblk = true

/-- `t` is `s` after a read of `k` words: it starts anew after a regeneration where fewer than `k` words are left. -/
structure ServesWords (k : Nat) (s t : State) : Prop where
  completes : CompletesRead s t
  full : t.sm.full s.cfg.nblk = true
  cursor : t.cursor = (if s.cursor ≥ s.cfg.nwords + 1 - k then 0 else s.cursor) + k
  regenCount : t.regenCount = if s.cursor ≥ s.cfg.nwords + 1 - k then s.regenCount + 1 else s.regenCount
  first : t.sm.w32 (t.cursor - k) = some t.dout0

theorem CanRead.exec_next32 {s : State} (h : CanRead s) :
    ∃ t, exec .next32 s = .next t ∧ ServesWords 1 s t ∧ t.dout1 = 0 := by
  obtain ⟨m, dp, r, hpop, hr, hfull, -⟩ := pop32_of_full h.config h.full
  exact ⟨_, exec_next32_of_pop h.seeded hpop, ⟨pop32_completesRead hpop, hfull, rfl, rfl, hr⟩, rfl⟩

theorem CanRead.exec_next64 {s : State} (h : CanRead s) :
    ∃ t, exec .next64 s = .next t ∧ ServesWords 2 s t ∧ t.sm.w32 (t.cursor - 1) = some t.dout1 := by
  obtain ⟨m, dp, lo, hi, hpop, hlo, hhi, hfull, -⟩ := pop64_of_full h.config h.full
  exact ⟨_, exec_next64_of_pop h.seeded hpop, ⟨pop64_completesRead hpop, hfull, rfl, rfl, hlo⟩, hhi⟩

section
variable {k : Nat} {s t : State} (h : ServesWords k s t)
include h

theorem ServesWords.cfg : t.cfg = s.cfg := h.completes.keeps.1

theorem ServesWords.canRead (hs : CanRead s) : CanRead t where
  config := h.cfg ▸ hs.config
  seeded := h.completes.keeps.2 hs.seeded
  full := h.cfg ▸ h.full

/-- The cursor stays in range (43_extraction.md R162). -/
theorem ServesWords.cursor_le (hk : k ≤ 2) : k ≤ t.cursor ∧ t.cursor ≤ s.cfg.nwords := by
  have hW : s.cfg.nwords = 4 * s.cfg.nblk := rfl
  have hN := mexp_nblk_ge s.cfg
  have hcursor := h.cursor
  split at hcursor <;> omega

theorem ServesWords.result : t.err = 0x0#4 ∧ t.pend = none ∧ t.sticky = s.sticky ∧ t.din = s.din := by
  rw [h.completes]
  exact ⟨rfl, rfl, rfl, rfl⟩

/-- Of an exhausted generation the words are the first of the next one. -/
theorem ServesWords.of_exhausted (hk : 1 ≤ k) (hs : s.cursor = s.cfg.nwords) :
    t.cursor = k ∧ t.regenCount = s.regenCount + 1 := by
  have hexhausted : s.cursor ≥ s.cfg.nwords + 1 - k := by omega
  rw [h.cursor, h.regenCount, if_pos hexhausted, if_pos hexhausted]
  exact ⟨Nat.zero_add k, rfl⟩

end

/-- Settles O27: what every read does, of one word and of two. -/
theorem readsCompleteOnASeededEngine : Obligations.ReadsCompleteOnASeededEngine := by
  intro s hwf hs hset
  have hread : CanRead s := ⟨hwf, hs, Memory.full_iff.2 hset⟩
  obtain ⟨t, ht, hserves, hdout1⟩ := hread.exec_next32
  obtain ⟨t', ht', hserves', -⟩ := hread.exec_next64
  obtain ⟨hlo, hhi⟩ := hserves.cursor_le (by decide)
  obtain ⟨hlo', hhi'⟩ := hserves'.cursor_le (by decide)
  obtain ⟨herr, hpend, hsticky, hdin⟩ := hserves.result
  obtain ⟨herr', hpend', hsticky', hdin'⟩ := hserves'.result
  exact ⟨⟨t, ht, herr, hpend, hlo, hhi, hsticky, hdin, hdout1⟩, t', ht', herr', hpend', hlo', hhi', hsticky', hdin'⟩

/-- After SEED reads complete, and the generation is exhausted (42_seed_certify.md R140). -/
theorem canRead_of_exec_seed {s t : State} (hwf : s.cfg.wf) (h : exec .seed s = .next t) :
    CanRead t ∧ t.cursor = t.cfg.nwords := by
  have hop := op_of_exec_seed h
  have hfull := seedOp_full hop
  obtain ⟨m, dp, hspec, -⟩ := seedOp_spec s
  cases hop.symm.trans hspec
  exact ⟨⟨hwf, rfl, hfull⟩, rfl⟩

/-- Settles O24: SEED leaves an exhausted generation. -/
theorem firstReadAfterSeedRegenerates : Obligations.FirstReadAfterSeedRegenerates := by
  intro s t hwf hseed
  obtain ⟨hread, hexhausted⟩ := canRead_of_exec_seed hwf hseed
  obtain ⟨u, hu, hserves, -⟩ := hread.exec_next32
  obtain ⟨u', hu', hserves', hsecond⟩ := hread.exec_next64
  obtain ⟨hcursor, hcount⟩ := hserves.of_exhausted (by decide) hexhausted
  obtain ⟨hcursor', hcount'⟩ := hserves'.of_exhausted (by decide) hexhausted
  have hfirst := hserves.first
  have hfirst' := hserves'.first
  rw [hcursor] at hfirst
  rw [hcursor'] at hfirst' hsecond
  exact ⟨⟨u, hu, hcursor, hcount, hfirst⟩, u', hu', hcursor', hcount', hfirst', hsecond⟩

end Sys2Proof.Machine
end

section
/-! A run of reads over the end of a generation (43_extraction.md R167). -/

namespace Sys2Proof.Machine

/-- A run goes on from where its first part ends. -/
theorem runInstrs_append {is js : List Instr} {s t : State} (h : runInstrs is s = .next t) :
    runInstrs (is ++ js) s = runInstrs js t := by
  induction is generalizing s with
  | nil => cases h; rfl
  | cons i is ih =>
    simp only [List.cons_append, runInstrs] at h ⊢
    split at h
    · exact ih h
    · cases h
    · cases h

theorem runInstrs_replicate_succ {n : Nat} {i : Instr} {s t u : State}
    (h : runInstrs (List.replicate n i) s = .next t) (hi : exec i t = .next u) :
    runInstrs (List.replicate (n + 1) i) s = .next u := by
  rw [List.replicate_succ', runInstrs_append h]
  simp only [runInstrs, hi]

/-- `n` reads of one word from an exhausted generation: the first starts the next generation, and each of the
others finds a word of it left. -/
theorem run_next32_of_exhausted {s : State} (hs : CanRead s) (hexhausted : s.cursor = s.cfg.nwords) {n : Nat}
    (hn : 1 ≤ n) (hW : n ≤ s.cfg.nwords) :
    ∃ t, runInstrs (List.replicate n .next32) s = .next t ∧ CanRead t ∧ t.cfg = s.cfg ∧ t.cursor = n ∧
      t.regenCount = s.regenCount + 1 ∧ t.sm.w32 (n - 1) = some t.dout0 := by
  induction n, hn using Nat.le_induction with
  | base =>
    obtain ⟨t, ht, hserves, -⟩ := hs.exec_next32
    obtain ⟨hcursor, hcount⟩ := hserves.of_exhausted (Nat.le_refl 1) hexhausted
    refine ⟨t, runInstrs_replicate_succ (n := 0) rfl ht, hserves.canRead hs, hserves.cfg, hcursor, hcount, ?_⟩
    rw [← hserves.first, hcursor]
  | succ n hn ih =>
    obtain ⟨t, ht, hread, hcfg, hcursor, hcount, -⟩ := ih (Nat.le_of_succ_le hW)
    obtain ⟨u, hu, hserves, -⟩ := hread.exec_next32
    have hleft : ¬ t.cursor ≥ t.cfg.nwords + 1 - 1 := by rw [hcfg, hcursor]; omega
    have hcursor' : u.cursor = n + 1 := by rw [hserves.cursor, if_neg hleft, hcursor]
    refine ⟨u, runInstrs_replicate_succ ht hu, hserves.canRead hread, hserves.cfg.trans hcfg, hcursor', ?_, ?_⟩
    · rw [hserves.regenCount, if_neg hleft, hcount]
    · rw [← hserves.first, hcursor']

/-- Settles O29: W reads exhaust the next generation, and one more read starts the one after it. -/
theorem exhaustionTriggersExactlyOneRegeneration : Obligations.ExhaustionTriggersExactlyOneRegeneration := by
  intro s hs hseeded hexhausted
  have hread : CanRead s := ⟨hs.config, hseeded, hs.seededFull hseeded⟩
  have hN := mexp_nblk_ge s.cfg
  refine ⟨fun n hn hW => ?_, ?_⟩
  · obtain ⟨t, ht, -, -, hresult⟩ := run_next32_of_exhausted hread hexhausted hn hW
    exact ⟨t, ht, hresult⟩
  · obtain ⟨t, ht, hread', hcfg, hcursor, hcount, -⟩ :=
      run_next32_of_exhausted hread hexhausted (by unfold Config.nwords; omega) (Nat.le_refl s.cfg.nwords)
    obtain ⟨u, hu, hserves, -⟩ := hread'.exec_next32
    obtain ⟨hcursor', hcount'⟩ := hserves.of_exhausted (Nat.le_refl 1) (by rw [hcursor, hcfg])
    refine ⟨u, runInstrs_replicate_succ ht hu, hcursor', ?_⟩
    rw [hcount', hcount, BitVec.add_assoc]
    rfl

end Sys2Proof.Machine
end

section
/-! Reads on two states with one generator: of the working registers REGEN sees none that it does not load itself, so
that SM, the cursor and `seeded` decide what a read hands out (43_extraction.md R169). -/

namespace Sys2Proof.Machine

/-- Two states of REGEN's loop with the same SM, r1 and r2. -/
def SameRounds (q q' : Datapath × Memory) : Prop := q.1.r1 = q'.1.r1 ∧ q.1.r2 = q'.1.r2 ∧ q.2 = q'.2

/-- A round loads a, b, c and d and overwrites x, y, z and v before it uses them. -/
theorem regenRound_sameRounds (p : ParameterSet) (n i : Nat) {q q' : Datapath × Memory} (h : SameRounds q q') :
    Option.Rel SameRounds (regenRound p n i q.1 q.2) (regenRound p n i q'.1 q'.2) := by
  obtain ⟨d, m⟩ := q
  obtain ⟨d', m'⟩ := q'
  obtain ⟨h1, h2, rfl⟩ : d.r1 = d'.r1 ∧ d.r2 = d'.r2 ∧ m = m' := h
  cases ha : m.block i with
  | none => simp only [regenRound, ha]; exact .none
  | some av =>
    cases hb : m.block (partner n p.pos1 i) with
    | none => simp only [regenRound, ha, hb]; exact .none
    | some bv =>
      obtain ⟨e, he, her1, her2, -⟩ := regenRound_of_set p d ha hb
      obtain ⟨e', he', her1', her2', -⟩ := regenRound_of_set p d' ha hb
      rw [he, he']
      exact .some ⟨by rw [her1, her1', h2], by rw [her2, her2', h1, h2], by simp only [h1, h2]⟩

theorem regenLoop_sameRounds (p : ParameterSet) (n : Nat) :
    ∀ (cnt i : Nat) {q q' : Datapath × Memory}, SameRounds q q' →
      Option.Rel SameRounds (regenLoop p n cnt i q.1 q.2) (regenLoop p n cnt i q'.1 q'.2)
  | 0, _, _, _, h => .some h
  | cnt + 1, i, q, q', h => by
    have hround := regenRound_sameRounds p n i h
    simp only [regenLoop]
    generalize regenRound p n i q.1 q.2 = o, regenRound p n i q'.1 q'.2 = o' at hround ⊢
    cases hround with
    | none => exact .none
    | some hnext => exact regenLoop_sameRounds p n cnt (i + 1) hnext

/-- The parts of two states that decide what a read hands out are the same (43_extraction.md R169). -/
structure SameGenerator (s s' : State) : Prop where
  mexp : s.cfg.mexp = s'.cfg.mexp
  params : s.cfg.params = s'.cfg.params
  sm : s.sm = s'.sm
  cursor : s.cursor = s'.cursor
  seeded : s.seeded = s'.seeded

/-- What a host reads after a command is the same as well: ERR, DOUT0 and DOUT1. -/
structure SameOutput (s s' : State) : Prop extends SameGenerator s s' where
  err : s.err = s'.err
  dout0 : s.dout0 = s'.dout0
  dout1 : s.dout1 = s'.dout1

section
variable {s s' : State} (h : SameGenerator s s')
include h

theorem SameGenerator.nblk : s.cfg.nblk = s'.cfg.nblk := by
  rw [Config.nblk, Config.nblk, h.mexp]

theorem SameGenerator.nwords : s.cfg.nwords = s'.cfg.nwords := by
  rw [Config.nwords, Config.nwords, h.nblk]

theorem SameGenerator.rel_regenOp : Option.Rel SameGenerator (regenOp s) (regenOp s') := by
  simp only [regenOp, h.nblk, h.params, h.sm]
  cases s'.sm.block (s'.cfg.nblk - 2) with
  | none => exact .none
  | some v1 =>
    cases s'.sm.block (s'.cfg.nblk - 1) with
    | none => exact .none
    | some v2 =>
      have hloop := regenLoop_sameRounds s'.cfg.params s'.cfg.nblk s'.cfg.nblk 0
        (q := ({ s.dp with r1 := v1, r2 := v2 }, s'.sm)) (q' := ({ s'.dp with r1 := v1, r2 := v2 }, s'.sm))
        ⟨rfl, rfl, rfl⟩
      dsimp only at hloop ⊢
      generalize regenLoop _ _ _ 0 { s.dp with r1 := v1, r2 := v2 } _ = o,
        regenLoop _ _ _ 0 { s'.dp with r1 := v1, r2 := v2 } _ = o' at hloop ⊢
      cases hloop with
      | none => exact .none
      | some hq => exact .some ⟨h.mexp, h.params, hq.2.2, rfl, h.seeded⟩

theorem SameGenerator.rel_regenFrom (limit : Nat) :
    Option.Rel SameGenerator (regenFrom limit s) (regenFrom limit s') := by
  unfold regenFrom
  rw [h.cursor]
  split
  · exact h.rel_regenOp
  · exact .some h

/-- A read that hands out the same from both, and as many words, leaves the same. -/
theorem SameGenerator.handsOut (k : Nat) (r0 r1 : Word32) :
    SameOutput (complete .ok { s with cursor := s.cursor + k, dout0 := r0, dout1 := r1 })
      (complete .ok { s' with cursor := s'.cursor + k, dout0 := r0, dout1 := r1 }) :=
  ⟨⟨h.mexp, h.params, h.sm, congrArg (· + k) h.cursor, h.seeded⟩, rfl, rfl, rfl⟩

theorem SameGenerator.rel_pop32 : Option.Rel SameOutput (pop32 s) (pop32 s') := by
  have hregen := h.rel_regenFrom s.cfg.nwords
  unfold pop32
  rw [← h.nwords]
  generalize regenFrom _ s = o, regenFrom _ s' = o' at hregen ⊢
  cases hregen with
  | none => exact .none
  | @some u u' hu =>
    have hword : u.sm.w32 u.cursor = u'.sm.w32 u'.cursor := by rw [hu.sm, hu.cursor]
    dsimp only
    rw [hword]
    cases u'.sm.w32 u'.cursor with
    | none => exact .none
    | some r => exact .some (hu.handsOut _ _ _)

theorem SameGenerator.rel_pop64 : Option.Rel SameOutput (pop64 s) (pop64 s') := by
  have hregen := h.rel_regenFrom (s.cfg.nwords - 1)
  unfold pop64
  rw [← h.nwords]
  generalize regenFrom _ s = o, regenFrom _ s' = o' at hregen ⊢
  cases hregen with
  | none => exact .none
  | @some u u' hu =>
    have hword : u.sm.w64 u.cursor = u'.sm.w64 u'.cursor := by rw [hu.sm, hu.cursor]
    dsimp only
    rw [hword]
    cases u'.sm.w64 u'.cursor with
    | none => exact .none
    | some r => exact .some (hu.handsOut _ _ _)

end

end Sys2Proof.Machine
end

section
/-! Two runs in lockstep show the same outputs (43_extraction.md R169). -/

namespace Sys2Proof.Machine

/-- Two outcomes that a host cannot tell apart: both faults, or next states that show the same and are related. -/
inductive Lockstep (R : State → State → Prop) :
    Host.Outcome State Fault Refusal → Host.Outcome State Fault Refusal → Prop
  | next {t t' : State} (hR : R t t') (hshown : (t.err, t.dout0, t.dout1) = (t'.err, t'.dout0, t'.dout1)) :
      Lockstep R (.next t) (.next t')
  | fault (f : Fault) : Lockstep R (.fault f) (.fault f)

theorem Lockstep.of_sameOutput {R : State → State → Prop} {t t' : State} (h : SameOutput t t')
    (hR : SameOutput t t' → R t t') : Lockstep R (.next t) (.next t') :=
  .next (hR h) (by rw [h.err, h.dout0, h.dout1])

/-- Where each command keeps two states in lockstep, a list of commands shows the same in both. -/
theorem outputs_eq_of_lockstep {R : State → State → Prop} {cmds : List Instr}
    (hstep : ∀ i ∈ cmds, ∀ s s', R s s' → Lockstep R (exec i s) (exec i s')) {s s' : State} (h : R s s') :
    outputs cmds s = outputs cmds s' := by
  induction cmds generalizing s s' with
  | nil => rfl
  | cons i is ih =>
    have hi := hstep i List.mem_cons_self s s' h
    simp only [outputs]
    generalize exec i s = o, exec i s' = o' at hi ⊢
    cases hi with
    | fault f => rfl
    | next hR hshown =>
      exact congrArg₂ List.cons hshown (ih (fun j hj => hstep j (List.mem_cons_of_mem i hj)) hR)

theorem Lockstep.orUnset {R : State → State → Prop} {o o' : Option State} (h : Option.Rel SameOutput o o')
    (hR : ∀ t t', o = some t → o' = some t' → SameOutput t t' → R t t') : Lockstep R (orUnset o) (orUnset o') := by
  cases h with
  | none => exact .fault _
  | some ht => exact .of_sameOutput ht (hR _ _ rfl rfl)

theorem exec_next32_of_seeded {s : State} (hs : s.seeded = true) : exec .next32 s = orUnset (pop32 s) := if_pos hs

theorem exec_next64_of_seeded {s : State} (hs : s.seeded = true) : exec .next64 s = orUnset (pop64 s) := if_pos hs

/-- A read on two seeded engines with one generator. -/
theorem SameGenerator.exec_read {R : State → State → Prop} {s s' : State} (h : SameGenerator s s')
    (hs : s.seeded = true) {i : Instr} (hi : i = .next32 ∨ i = .next64)
    (hR : ∀ t t', CompletesRead s t → CompletesRead s' t' → SameOutput t t' → R t t') :
    Lockstep R (exec i s) (exec i s') := by
  have hs' : s'.seeded = true := h.seeded ▸ hs
  rcases hi with rfl | rfl
  · rw [exec_next32_of_seeded hs, exec_next32_of_seeded hs']
    exact .orUnset h.rel_pop32 fun t t' ht ht' => hR t t' (pop32_completesRead ht) (pop32_completesRead ht')
  · rw [exec_next64_of_seeded hs, exec_next64_of_seeded hs']
    exact .orUnset h.rel_pop64 fun t t' ht ht' => hR t t' (pop64_completesRead ht) (pop64_completesRead ht')

/-- Two seeded engines with one generator. -/
def SameSeededGenerator (s s' : State) : Prop := SameGenerator s s' ∧ s.seeded = true

theorem SameSeededGenerator.exec_read {s s' : State} (h : SameSeededGenerator s s') {i : Instr}
    (hi : i = .next32 ∨ i = .next64) : Lockstep SameSeededGenerator (exec i s) (exec i s') := by
  obtain ⟨hgen, hs⟩ := h
  exact hgen.exec_read hs hi fun _ _ hread _ hout => ⟨hout.toSameGenerator, hread.keeps.2 hs⟩

/-- Settles O55: a read keeps the two generators the same and seeded. -/
theorem outputsDependOnlyOnTheGenerator : Obligations.OutputsDependOnlyOnTheGenerator := by
  intro s s' cmds hmexp hparams hsm hcursor hs hs' hreads
  have hstart : SameSeededGenerator s s' := ⟨⟨hmexp, hparams, hsm, hcursor, hs.trans hs'.symm⟩, hs⟩
  exact outputs_eq_of_lockstep (fun i hi _ _ h => h.exec_read (hreads i hi)) hstart

end Sys2Proof.Machine
end

section
/-! A copy of the state tuple beside its source (43_extraction.md R169). -/

namespace Sys2Proof.Machine

/-- All that a command's outputs depend on is the same: the generator, the results it may leave, and the seed. -/
structure SameEngine (s s' : State) : Prop extends SameOutput s s' where
  din : s.din = s'.din

theorem CompletesRead.din {s t : State} (h : CompletesRead s t) : t.din = s.din := by
  rw [h]

/-- SEED over the memory that EXPAND's loop leaves. -/
theorem seedOp_eq (s : State) :
    ∃ dp, seedOp s = some { s with
      sm := (expandLoop s.cfg.nblk 0 s.din s.sm).2.setBlock 0 (certifyBlock s.cfg.params (seedBlock s.din 0))
      cursor := s.cfg.nwords, seeded := true, dp := dp, err := ErrCode.ok.bits, pend := none } := by
  have hN := mexp_nblk_ge s.cfg
  have hcert := certifyOp_of_set (s := { expandOp s.din s with cursor := s.cfg.nwords })
    (expandOp_block s.din s (k := 0) (by omega))
  exact ⟨_, seedOp_of_certifyOp hcert⟩

section
variable {s s' : State} (h : SameEngine s s')
include h

theorem SameEngine.exec_seed : Lockstep SameEngine (exec .seed s) (exec .seed s') := by
  obtain ⟨dp, hop⟩ := seedOp_eq s
  obtain ⟨dp', hop'⟩ := seedOp_eq s'
  rw [exec_seed_of_op hop, exec_seed_of_op hop']
  refine .of_sameOutput ⟨⟨h.mexp, h.params, ?_, h.nwords, rfl⟩, rfl, h.dout0, h.dout1⟩ fun hout =>
    ⟨hout, h.din⟩
  simp only [h.nblk, h.params, h.sm, h.din]

/-- Unseeded reads show the results that the engine still holds. -/
theorem SameEngine.exec_read {i : Instr} (hi : i = .next32 ∨ i = .next64) :
    Lockstep SameEngine (exec i s) (exec i s') := by
  cases hs : s.seeded with
  | true =>
    refine h.toSameGenerator.exec_read hs hi fun t t' hread hread' hout => ?_
    exact ⟨hout, by rw [hread.din, hread'.din, h.din]⟩
  | false =>
    have hfail : Lockstep SameEngine (.next (complete .unseeded s)) (.next (complete .unseeded s')) :=
      .of_sameOutput ⟨{ h with }, rfl, h.dout0, h.dout1⟩ fun hout => ⟨hout, h.din⟩
    obtain ⟨h32, h64⟩ := exec_next_unseeded hs
    obtain ⟨h32', h64'⟩ := exec_next_unseeded (h.seeded ▸ hs)
    rcases hi with rfl | rfl
    · rwa [h32, h32']
    · rwa [h64, h64']

theorem SameEngine.exec_hostCommand {i : Instr} (hi : isHostCommand i = true) :
    Lockstep SameEngine (exec i s) (exec i s') := by
  cases i with
  | seed => exact h.exec_seed
  | next32 => exact h.exec_read (.inl rfl)
  | next64 => exact h.exec_read (.inr rfl)
  | vand | vxor | vsrl32 | vsll32 | vsrlb | vsllb | recur | regen | expand | certify => cases hi

end

theorem sameEngine_of_cloneInto {s d c : State} (h : cloneInto s d = some c) : SameEngine c s := by
  unfold cloneInto at h
  split at h
  · next hsame =>
    obtain ⟨hmexp, hparams⟩ := hsame
    cases h
    exact ⟨⟨⟨hmexp.symm, hparams.symm, rfl, rfl, rfl⟩, rfl, rfl, rfl⟩, rfl⟩
  · cases h

/-- Settles O54: every host command keeps the copy and its source the same. -/
theorem cloneGivesTheSameOutputs : Obligations.CloneGivesTheSameOutputs := by
  intro s d c cmds hclone hcmds
  exact outputs_eq_of_lockstep (fun i hi _ _ h => h.exec_hostCommand (hcmds i hi)) (sameEngine_of_cloneInto hclone)

end Sys2Proof.Machine
end

section
/-! The commands that the statements of a fill issue (43_extraction.md R164, R165). -/

namespace Sys2Proof.Machine

@[simp] theorem commandWords_get32 (base : Nat) (dst : HVar) :
    (Asm.get32 base dst).filterMap (commandWord base) = [0x00000002#32] := by
  simp [Asm.get32, Asm.command, Asm.wr, Asm.wait, Asm.rd, commandWord, Asm.at32, Reg.offset]

@[simp] theorem commandWords_get64 (base : Nat) (dst : HVar) :
    (Asm.get64 base dst).filterMap (commandWord base) = [0x00000003#32] := by
  simp [Asm.get64, Asm.command, Asm.wr, Asm.wait, Asm.rd, commandWord, Asm.at32, Reg.offset]

@[simp] theorem commandWord_put (base addr count : Nat) : commandWord base (.put addr count) = none := rfl

theorem commandWords_fill64 (base buf : Nat) (n : Nat) :
    (Asm.fill64 base buf n).filterMap (commandWord base) = List.replicate n 0x00000003#32 := by
  induction n with
  | zero => rfl
  | succ n ih => simp [Asm.fill64, ih, List.replicate_succ']

theorem commandWords_fill32 (base buf : Nat) (n : Nat) :
    (Asm.fill32 base buf n).filterMap (commandWord base) = List.replicate n 0x00000002#32 := by
  induction n with
  | zero => rfl
  | succ n ih => simp [Asm.fill32, ih, List.replicate_succ']

theorem commandWords_fillTail (base addr rem : Nat) :
    (Asm.fillTail base addr rem).filterMap (commandWord base) =
      if 5 ≤ rem then [0x00000003#32] else if 1 ≤ rem then [0x00000002#32] else [] := by
  unfold Asm.fillTail
  split
  · simp [show 5 ≤ rem by omega]
  · split
    · simp [show ¬ 5 ≤ rem by omega, show 1 ≤ rem by omega]
    · simp [show rem = 0 by omega]

/-- Settles O58: under U32_ONLY the tail is at most 3 bytes, so that it is one more NEXT32 or nothing. -/
theorem fillIssuesTheStatedCommands : Obligations.FillIssuesTheStatedCommands := by
  refine fun base len buf => ⟨rfl, ?_, ?_⟩
  · rw [Asm.fill, List.filterMap_append, commandWords_fill64, commandWords_fillTail]
  · rw [Asm.fill, List.filterMap_append, commandWords_fill32, commandWords_fillTail, if_neg (by omega)]
    split
    · rw [show (len + 3) / 4 = len / 4 + 1 by omega, List.replicate_succ']
    · rw [show (len + 3) / 4 = len / 4 by omega, List.append_nil]

end Sys2Proof.Machine
end

section
/-! The stores of a fill: their addresses, and the bytes that each leaves in the buffer (43_extraction.md R164,
20_memory.md R64). -/

namespace Sys2Proof.Machine

@[simp] theorem storedAt_get32 (base : Nat) (dst : HVar) : (Asm.get32 base dst).flatMap storedAt = [] := rfl

@[simp] theorem storedAt_get64 (base : Nat) (dst : HVar) : (Asm.get64 base dst).flatMap storedAt = [] := rfl

@[simp] theorem storedAt_put (addr count : Nat) : storedAt (.put addr count) = (List.range count).map (addr + ·) := rfl

/-- Stores to the addresses from `buf` on, and then to those after them. -/
theorem map_range_append (buf a b : Nat) :
    (List.range a).map (buf + ·) ++ (List.range b).map (buf + a + ·) = (List.range (a + b)).map (buf + ·) := by
  simp [List.range_add, Nat.add_assoc]

theorem storedAt_fill64 (base buf n : Nat) :
    (Asm.fill64 base buf n).flatMap storedAt = (List.range (8 * n)).map (buf + ·) := by
  induction n with
  | zero => rfl
  | succ n ih =>
    simp only [Asm.fill64, List.flatMap_append, ih, storedAt_get64, List.append_nil, List.flatMap_singleton,
      storedAt_put, map_range_append, Nat.mul_succ]

theorem storedAt_fill32 (base buf n : Nat) :
    (Asm.fill32 base buf n).flatMap storedAt = (List.range (4 * n)).map (buf + ·) := by
  induction n with
  | zero => rfl
  | succ n ih =>
    simp only [Asm.fill32, List.flatMap_append, ih, storedAt_get32, List.append_nil, List.flatMap_singleton,
      storedAt_put, map_range_append, Nat.mul_succ]

theorem storedAt_fillTail (base addr rem : Nat) :
    (Asm.fillTail base addr rem).flatMap storedAt = (List.range rem).map (addr + ·) := by
  unfold Asm.fillTail
  split
  · simp
  · split
    · simp
    · simp [show rem = 0 by omega]

theorem storedAt_fill (base len buf : Nat) (decomp : FillDecomp) :
    (Asm.fill base len buf decomp).flatMap storedAt = (List.range len).map (buf + ·) := by
  cases decomp with
  | u64ThenTail =>
    rw [Asm.fill, List.flatMap_append, storedAt_fill64, storedAt_fillTail, map_range_append, Nat.div_add_mod]
  | u32Only =>
    rw [Asm.fill, List.flatMap_append, storedAt_fill32, storedAt_fillTail, map_range_append, Nat.div_add_mod]

theorem read_putBytes_of_lt (r : Word64) (addr : Nat) (m : Cells Byte) {i : Nat} :
    ∀ {count : Nat}, i < count → Cells.read (putBytes r addr count m) (addr + i) = some (leByte r i)
  | count + 1, hi => by
    by_cases hlast : i = count
    · rw [hlast, putBytes, Cells.read_write_same]
    · rw [putBytes, Cells.read_write_other _ _ (by omega), read_putBytes_of_lt r addr m (by omega)]

theorem read_putBytes_outside (r : Word64) {addr k : Nat} (m : Cells Byte) :
    ∀ {count : Nat}, k < addr ∨ addr + count ≤ k → Cells.read (putBytes r addr count m) k = Cells.read m k
  | 0, _ => rfl
  | count + 1, hk => by
    rw [putBytes, Cells.read_write_other _ _ (by omega), read_putBytes_outside r m (by omega)]

theorem not_mem_storedAt_put {addr count k : Nat} :
    k ∉ storedAt (.put addr count) ↔ k < addr ∨ addr + count ≤ k := by
  constructor
  · intro h
    by_contra hin
    exact h (List.mem_map.2 ⟨k - addr, List.mem_range.2 (by omega), by omega⟩)
  · intro h hmem
    obtain ⟨i, hi, rfl⟩ := List.mem_map.1 hmem
    have := List.mem_range.1 hi
    omega

theorem step_of_put {s u : State} (hu : TurnNext .host s u) {addr count : Nat} {rest : List HostStmt}
    (hprog : s.host.prog = .put addr count :: rest) :
    step s = .next { u with host := { s.host with
      prog := rest, buf := putBytes s.host.r addr count s.host.buf } } := by
  have hhost : u.host = s.host := by rw [turnNext_frame hu]
  rw [step_of_turnNext hu]
  simp only [takeTurn, hostTurn, hhost, hprog, hostStmt, setHost]

/-- Settles O59: the pieces of a fill lie one after another, and a store writes byte by byte. -/
theorem fillStoresLittleEndianBytes : Obligations.FillStoresLittleEndianBytes :=
  ⟨storedAt_fill, fun s _ addr _ _ hu hprog => ⟨_, step_of_put hu hprog,
    fun _ hi => read_putBytes_of_lt s.host.r addr s.host.buf hi,
    fun _ hk => read_putBytes_outside s.host.r s.host.buf hk, fun _ => not_mem_storedAt_put⟩⟩

end Sys2Proof.Machine
end

section
/-! Building an instance (60_exceptions.md R209). -/

namespace Sys2Proof.Machine

theorem mexpOf_toNat (m : Mexp) : mexpOf m.toNat = some m := by
  cases m <;> rfl

theorem toNat_of_mexpOf {n : Nat} {m : Mexp} (h : mexpOf n = some m) : m.toNat = n := by
  unfold mexpOf at h
  split at h <;> cases h <;> rfl

theorem toNat_mem_supportedSizes (m : Mexp) :
    m.toNat ∈ [607, 1279, 2281, 4253, 11213, 19937, 44497, 86243, 132049, 216091] := by
  cases m <;> decide

theorem elaborate_eq_some_iff {n : Nat} {p : ParameterSet} {base : Nat} {c : Config} :
    elaborate n p base = some c ↔ c.mexp.toNat = n ∧ c.params = p ∧ c.base = base ∧ c.wf := by
  constructor
  · intro h
    unfold elaborate at h
    split at h
    · cases h
    · next m hm =>
      split at h
      · next hwf => cases h; exact ⟨toNat_of_mexpOf hm, rfl, rfl, hwf⟩
      · cases h
  · rintro ⟨rfl, rfl, rfl, hwf⟩
    simp only [elaborate, mexpOf_toNat]
    exact if_pos hwf

/-- Settles O1: the number of an instance is that of its size, and so one of the ten. -/
theorem elaborationAcceptsExactlyLegalConfigurations :
    Obligations.ElaborationAcceptsExactlyLegalConfigurations := by
  refine fun n p base => ⟨fun c => elaborate_eq_some_iff, fun hn => ?_⟩
  refine Option.eq_none_iff_forall_ne_some.2 fun c hc => hn ?_
  obtain ⟨hsize, -⟩ := elaborate_eq_some_iff.1 hc
  exact hsize ▸ toNat_mem_supportedSizes c.mexp

end Sys2Proof.Machine
end

section
/-! The host beside a busy engine (60_exceptions.md R205, 70_reset_and_hazards.md R233 to R236), and the halted
engine (60_exceptions.md R204). -/

namespace Sys2Proof.Machine

theorem busy_of_halted {s : State} (h : s.halted = true) : busy s = true := by
  simp [busy, h]

/-- While BUSY is 1 a write to CMD is dropped (10_state.md R38). -/
theorem writeReg_cmd_of_busy {s : State} (h : busy s = true) (w : Word32) : writeReg s w .cmd = setOverrun s :=
  if_pos h

/-- While BUSY is 1 a write to DIN is dropped (10_state.md R39). -/
theorem writeReg_din_of_busy {s : State} (h : busy s = true) (w : Word32) : writeReg s w .din = setOverrun s :=
  if_pos h

/-- PEND and DIN, which make up a command in flight, are the same in both states. -/
def SameCommand (s t : State) : Prop := t.pend = s.pend ∧ t.din = s.din

theorem writeReg_sameCommand {s : State} (h : busy s = true) (w : Word32) (r : Reg) :
    SameCommand s (writeReg s w r) := by
  cases r with
  | cmd => rw [writeReg_cmd_of_busy h]; exact ⟨rfl, rfl⟩
  | din => rw [writeReg_din_of_busy h]; exact ⟨rfl, rfl⟩
  | status | dout0 | dout1 | cursor | mexp | nblk | regenCount => exact ⟨rfl, rfl⟩

theorem busWrite_sameCommand {s t : State} {a : Access} {w : Word32} (h : busy s = true)
    (hwrite : busWrite s a w = some t) : SameCommand s t := by
  unfold busWrite at hwrite
  split at hwrite
  · split at hwrite
    · cases hwrite; exact writeReg_sameCommand h w _
    · cases hwrite; exact ⟨rfl, rfl⟩
  · cases hwrite; exact ⟨rfl, rfl⟩
  · cases hwrite

theorem busRead_sameCommand {s : State} {a : Access} {q : Word64 × State} (h : busRead s a = some q) :
    SameCommand s q.2 := by
  rw [busRead_frame h]
  exact ⟨rfl, rfl⟩

/-- Of the host's statements only a write reaches PEND and DIN. -/
theorem hostStmt_sameCommand {s t : State} {rest : List HostStmt} {p : HostStmt} (h : busy s = true)
    (hstmt : hostStmt s rest p = .next t) : SameCommand s t := by
  cases p with
  | wr a v =>
    simp only [hostStmt] at hstmt
    split at hstmt
    · next hu =>
      have hsame := busWrite_sameCommand h hu
      cases hstmt
      exact hsame
    · cases hstmt
  | rd a dst | poll a =>
    simp only [hostStmt] at hstmt
    split at hstmt
    · next hq => cases hstmt; exact busRead_sameCommand hq
    · cases hstmt
  | pair dst | put addr count | failIf => cases hstmt; exact ⟨rfl, rfl⟩

theorem hostTurn_sameCommand {s t : State} (h : busy s = true) (hturn : hostTurn s = .next t) :
    SameCommand s t := by
  unfold hostTurn at hturn
  split at hturn
  · cases hturn; exact ⟨rfl, rfl⟩
  · exact hostStmt_sameCommand h hturn

theorem SameResults.refl (s : State) : SameResults s s :=
  ⟨rfl, rfl, rfl, rfl, rfl, rfl, rfl, rfl, rfl, rfl⟩

theorem hostTurn_sameResults {s t : State} (h : hostTurn s = .next t) : SameResults s t := by
  rw [hostTurn_frame h]
  exact SameResults.refl s

/-- BUSY is made of PEND and `halted`. -/
theorem busy_of_same {s t : State} (hpend : t.pend = s.pend) (hhalted : t.halted = s.halted) : busy t = busy s := by
  rw [busy, busy, hpend, hhalted]

/-- Settles O46: the frame of a host turn, and the writes that a busy engine drops. -/
theorem hostCannotDisturbACommandInFlight : Obligations.HostCannotDisturbACommandInFlight := by
  intro s t h
  have hsame := hostTurn_sameResults h
  refine ⟨hsame, fun hbusy => ?_⟩
  obtain ⟨-, -, -, hhalted, -⟩ := hsame
  obtain ⟨hpend, hdin⟩ := hostTurn_sameCommand hbusy h
  exact ⟨hpend, hdin, by rw [statusWord_busy, busy_of_same hpend hhalted, hbusy]⟩

/-- A halted engine takes no step, and the host cannot change it. -/
theorem takeTurn_of_halted {turn : Turn} {s t : State} (hhalted : s.halted = true) (hturn : turn ≠ .reset)
    (h : takeTurn turn s = .next t) : SameResults s t ∧ SameCommand s t := by
  cases turn with
  | host => exact ⟨hostTurn_sameResults h, hostTurn_sameCommand (busy_of_halted hhalted) h⟩
  | engine =>
    cases (engineWithoutAStepChangesNothing s (.inr hhalted)).symm.trans h
    exact ⟨.refl s, rfl, rfl⟩
  | reset => exact absurd rfl hturn

/-- Using up a turn leaves a state that differs in the schedule only. -/
theorem exists_sched_of_turnNext {turn : Turn} {s u : State} (h : TurnNext turn s u) :
    ∃ l, u = { s with sched := l } :=
  ⟨u.sched, turnNext_frame h⟩

/-- Settles O36: a halted engine is busy, and no turn but that of reset changes it. -/
theorem haltedEngineIsStuckUntilReset : Obligations.HaltedEngineIsStuckUntilReset := by
  intro s hhalted
  have hbusy := busy_of_halted hhalted
  refine ⟨(statusWord_busy s).trans hbusy, fun v => ⟨writeReg_cmd_of_busy hbusy v, writeReg_din_of_busy hbusy v⟩,
    fun t h hsched => ?_, fun rest hsched => ⟨_, step_of_turnNext (.inl ⟨rest, hsched, rfl⟩), rfl⟩⟩
  obtain ⟨turn, u, hu⟩ := exists_turnNext s
  have hturn := turnNext_ne_reset hu hsched
  rw [step_of_turnNext hu] at h
  obtain ⟨l, rfl⟩ := exists_sched_of_turnNext hu
  exact takeTurn_of_halted (s := { s with sched := l }) hhalted hturn h

end Sys2Proof.Machine
end

section
/-! How a command completes, and which error it reports (60_exceptions.md R202 to R207). -/

namespace Sys2Proof.Machine

section
variable {s : State} {w : Word32} (hpend : s.pend = some w) (hrun : s.halted = false)
include hpend hrun

/-- The DEFECT check does not look at the word (60_exceptions.md R207). -/
theorem engineTurn_of_defect (hcursor : s.cursor > s.cfg.nwords) : engineTurn s = .next (defect s) := by
  simp only [engineTurn, runWord, hpend, hrun, if_pos hcursor, Bool.false_eq_true, if_false]

theorem engineTurn_of_illegal (hcursor : s.cursor ≤ s.cfg.nwords) {y : IllegalWord} (hd : decode w = .illegal y) :
    engineTurn s = .next (complete .illegal s) := by
  simp only [engineTurn, runWord, hpend, hrun, hd, if_neg (Nat.not_lt.2 hcursor), Bool.false_eq_true, if_false]

theorem engineTurn_of_unseeded (hcursor : s.cursor ≤ s.cfg.nwords) (hseeded : s.seeded = false)
    (hd : decode w = .command .next32 ∨ decode w = .command .next64) :
    engineTurn s = .next (complete .unseeded s) := by
  obtain ⟨h32, h64⟩ := exec_next_unseeded hseeded
  obtain hd | hd := hd
  · exact (engineTurn_of_command hpend hrun hcursor hd).trans h32
  · exact (engineTurn_of_command hpend hrun hcursor hd).trans h64

/-- SEED raises nothing (42_seed_certify.md R140). -/
theorem engineTurn_of_seed (hcursor : s.cursor ≤ s.cfg.nwords) (hd : decode w = .command .seed) :
    ∃ t, engineTurn s = .next t ∧ t.seeded = true ∧ t.err = 0x0#4 := by
  obtain ⟨m, dp, hop, -⟩ := seedOp_spec s
  exact ⟨_, (engineTurn_of_command hpend hrun hcursor hd).trans (exec_seed_of_op hop), rfl, rfl⟩

/-- A read raises nothing where every block is set (43_extraction.md R160, R161). -/
theorem engineTurn_of_read (hcursor : s.cursor ≤ s.cfg.nwords) (hread : CanRead s)
    (hd : decode w = .command .next32 ∨ decode w = .command .next64) :
    ∃ t, engineTurn s = .next t ∧ t.err = 0x0#4 := by
  obtain hd | hd := hd
  · obtain ⟨t, ht, hserves, -⟩ := hread.exec_next32
    exact ⟨t, (engineTurn_of_command hpend hrun hcursor hd).trans ht, hserves.result.1⟩
  · obtain ⟨t, ht, hserves, -⟩ := hread.exec_next64
    exact ⟨t, (engineTurn_of_command hpend hrun hcursor hd).trans ht, hserves.result.1⟩

end

/-- Settles O33: the word decodes to no command, so that its turn completes with ERR_ILLEGAL. -/
theorem illegalWordOnlyReports : Obligations.IllegalWordOnlyReports := by
  intro s u w hpend hrun hcursor h1 h2 h3 hu
  obtain ⟨-, -, -, hillegal⟩ := decoderIsTheOpcodeMap
  obtain ⟨y, hd⟩ := hillegal w h1 h2 h3
  have hstep := step_of_turnNext hu
  obtain ⟨l, rfl⟩ := exists_sched_of_turnNext hu
  exact ⟨hstep.trans (engineTurn_of_illegal (s := { s with sched := l }) hpend hrun hcursor hd), hrun⟩

/-- Settles O34: the turn of each of the three commands on an unseeded engine. -/
theorem readBeforeSeedOnlyReports : Obligations.ReadBeforeSeedOnlyReports := by
  intro s u w hpend hrun hcursor hseeded hu
  have hstep := step_of_turnNext hu
  obtain ⟨l, rfl⟩ := exists_sched_of_turnNext hu
  refine ⟨fun hw => ?_, ?_⟩
  · have hd : decode w = .command .next32 ∨ decode w = .command .next64 := by
      obtain rfl | rfl := hw
      · exact .inl (decode_of_encode rfl)
      · exact .inr (decode_of_encode rfl)
    exact hstep.trans (engineTurn_of_unseeded (s := { s with sched := l }) hpend hrun hcursor hseeded hd)
  · rintro rfl
    rw [hstep]
    exact engineTurn_of_seed (s := { s with sched := l }) hpend hrun hcursor (decode_of_encode rfl)

/-- Settles O35: the turn ends at the DEFECT check. -/
theorem defectHaltsTheEngine : Obligations.DefectHaltsTheEngine := by
  intro s u w hpend hrun hcursor hu
  have hstep := step_of_turnNext hu
  obtain ⟨l, rfl⟩ := exists_sched_of_turnNext hu
  exact hstep.trans (engineTurn_of_defect (s := { s with sched := l }) hpend hrun hcursor)

/-- Settles O38: one kind of turn after another, in the order of R207. -/
theorem errorPriority : Obligations.ErrorPriority := by
  intro s w hpend hrun
  refine ⟨fun hcursor => ⟨_, engineTurn_of_defect hpend hrun hcursor, rfl⟩, fun hcursor ⟨_, hd⟩ =>
    ⟨_, engineTurn_of_illegal hpend hrun hcursor hd, rfl⟩, fun hcursor hd hseeded =>
    ⟨_, engineTurn_of_unseeded hpend hrun hcursor hseeded hd, rfl⟩, fun hcursor hd => ?_, fun hs hseeded hd => ?_⟩
  · obtain ⟨t, ht, -, herr⟩ := engineTurn_of_seed hpend hrun hcursor hd
    exact ⟨t, ht, herr⟩
  · exact engineTurn_of_read hpend hrun hs.cursorInRange ⟨hs.config, hseeded, hs.seededFull hseeded⟩ hd

/-- From `s` to `t` a command has completed, and if with an error, then with no other effect (60_exceptions.md
R206). -/
def CompletesPrecisely (s t : State) : Prop :=
  t.pend = none ∧ t.sticky = (s.sticky || t.err != 0x0#4) ∧ (t.err = 0x0#4 ∨ t.err = 0x1#4 ∨ t.err = 0x2#4) ∧
    (t.err ≠ 0x0#4 → t = { s with err := t.err, sticky := true, pend := none })

theorem completesPrecisely_illegal (s : State) : CompletesPrecisely s (complete .illegal s) :=
  ⟨rfl, (Bool.or_true s.sticky).symm, .inr (.inl rfl), fun _ => rfl⟩

theorem completesPrecisely_unseeded (s : State) : CompletesPrecisely s (complete .unseeded s) :=
  ⟨rfl, (Bool.or_true s.sticky).symm, .inr (.inr rfl), fun _ => rfl⟩

theorem completesPrecisely_of_ok {s t : State} (hpend : t.pend = none) (hsticky : t.sticky = s.sticky)
    (herr : t.err = 0x0#4) : CompletesPrecisely s t :=
  ⟨hpend, by simp [hsticky, herr], .inl herr, fun h => absurd herr h⟩

theorem CompletesRead.completesPrecisely {s t : State} (h : CompletesRead s t) : CompletesPrecisely s t := by
  rw [h]
  exact completesPrecisely_of_ok rfl rfl rfl

theorem exec_seed_completesPrecisely {s t : State} (h : exec .seed s = .next t) : CompletesPrecisely s t := by
  obtain ⟨m, dp, hop, -⟩ := seedOp_spec s
  cases (exec_seed_of_op hop).symm.trans h
  exact completesPrecisely_of_ok rfl rfl rfl

theorem exec_read_completesPrecisely {i : Instr} {s t : State} (hi : i = .next32 ∨ i = .next64)
    (h : exec i s = .next t) : CompletesPrecisely s t := by
  cases hseeded : s.seeded with
  | false =>
    have hexec : exec i s = .next (complete .unseeded s) := by
      obtain ⟨h32, h64⟩ := exec_next_unseeded hseeded
      obtain rfl | rfl := hi
      · exact h32
      · exact h64
    cases hexec.symm.trans h
    exact completesPrecisely_unseeded s
  | true =>
    obtain rfl | rfl := hi
    · exact (pop32_completesRead (pop_of_exec_next32 hseeded h)).completesPrecisely
    · exact (pop64_completesRead (pop_of_exec_next64 hseeded h)).completesPrecisely

/-- Settles O37: the word in PEND names no command, or SEED, or a read. -/
theorem errorsArePrecise : Obligations.ErrorsArePrecise := by
  intro s t w hpend hrun hcursor h
  cases hd : decode w with
  | illegal y =>
    cases (engineTurn_of_illegal hpend hrun hcursor hd).symm.trans h
    exact completesPrecisely_illegal s
  | command i =>
    rw [engineTurn_of_command hpend hrun hcursor hd] at h
    obtain ⟨-, rfl⟩ | ⟨-, hi⟩ | ⟨-, hi⟩ := decode_command hd
    · exact exec_seed_completesPrecisely h
    · exact exec_read_completesPrecisely (.inl hi) h
    · exact exec_read_completesPrecisely (.inr hi) h

end Sys2Proof.Machine
end

section
/-! The reset event and the end of a wait (70_reset_and_hazards.md R230, R237). -/

namespace Sys2Proof.Machine

theorem statusWord_resetEngine (s : State) : statusWord (resetEngine s) = 0x00000000#32 := by
  simp [statusWord, busy, bitAt]

/-- Settles O47: the step is the reset event. -/
theorem resetIsOneEvent : Obligations.ResetIsOneEvent := by
  intro s rest hsched
  have hstep : step s = .next (resetEngine { s with sched := rest }) :=
    step_of_turnNext (t := .reset) (.inl ⟨rest, hsched, rfl⟩)
  exact ⟨_, hstep, fun _ => rfl, rfl, rfl, rfl, rfl, rfl, rfl, rfl, rfl, rfl, rfl, rfl, statusWord_resetEngine _, rfl⟩

/-! The engine's turn beside the host: it touches neither the host nor the schedule. -/

/-- The host and the schedule are the same in both states. -/
def SameHost (s t : State) : Prop := t.host = s.host ∧ t.sched = s.sched

theorem CompletesRead.sameHost {s t : State} (h : CompletesRead s t) : SameHost s t := by
  rw [h]
  exact ⟨rfl, rfl⟩

theorem exec_seed_sameHost {s t : State} (h : exec .seed s = .next t) : SameHost s t := by
  obtain ⟨m, dp, hop, -⟩ := seedOp_spec s
  cases (exec_seed_of_op hop).symm.trans h
  exact ⟨rfl, rfl⟩

theorem exec_next32_sameHost {s t : State} (h : exec .next32 s = .next t) : SameHost s t := by
  cases hseeded : s.seeded with
  | true => exact (pop32_completesRead (pop_of_exec_next32 hseeded h)).sameHost
  | false =>
    cases (exec_next_unseeded hseeded).1.symm.trans h
    exact ⟨rfl, rfl⟩

theorem exec_next64_sameHost {s t : State} (h : exec .next64 s = .next t) : SameHost s t := by
  cases hseeded : s.seeded with
  | true => exact (pop64_completesRead (pop_of_exec_next64 hseeded h)).sameHost
  | false =>
    cases (exec_next_unseeded hseeded).2.symm.trans h
    exact ⟨rfl, rfl⟩

theorem engineTurn_sameHost {s t : State} (h : engineTurn s = .next t) : SameHost s t := by
  obtain ⟨-, he⟩ | ⟨_, -, -, he⟩ | ⟨_, -, -, -, he⟩ | ⟨_, i, -, -, -, hd, he⟩ | ⟨_, _, -, -, -, -, he⟩ :=
    engineTurn_cases s <;> rw [he] at h
  · cases h; exact ⟨rfl, rfl⟩
  · cases h; exact ⟨rfl, rfl⟩
  · cases h; exact ⟨rfl, rfl⟩
  · obtain ⟨-, rfl⟩ | ⟨-, rfl⟩ | ⟨-, rfl⟩ := decode_command hd
    · exact exec_seed_sameHost h
    · exact exec_next32_sameHost h
    · exact exec_next64_sameHost h
  · cases h; exact ⟨rfl, rfl⟩

/-- In a state that meets the invariant a turn of the engine leaves PEND empty: there is no command, or it
completes. -/
theorem State.Inv.engineTurn_pend {s t : State} (hs : s.Inv) (h : engineTurn s = .next t) : t.pend = none := by
  cases hpend : s.pend with
  | none =>
    cases (engineWithoutAStepChangesNothing s (.inl hpend)).symm.trans h
    exact hpend
  | some w =>
    obtain ⟨hdone, -⟩ := errorsArePrecise s t w hpend hs.running hs.cursorInRange h
    exact hdone

/-! The host at a wait, turn by turn. -/

/-- A poll of STATUS stays where it is while BUSY is 1. -/
theorem hostTurn_of_wait {s : State} {rest : List HostStmt} (hprog : s.host.prog = Asm.wait s.cfg.base ++ rest) :
    hostTurn s = .next (setHost s { s.host with
      prog := if busy s then s.host.prog else rest, s := (statusWord s).setWidth 64 }) := by
  have hbit : ((readReg s .status).setWidth 64).getLsbD 0 = busy s := by
    rw [BitVec.getLsbD_setWidth, readReg, statusWord_busy]
    rfl
  have hpoll : hostTurn s = hostStmt s rest (.poll (Asm.at32 s.cfg.base .status)) := by
    simp only [hostTurn, hprog, Asm.wait, List.cons_append, List.nil_append]
  rw [hpoll]
  simp only [hostStmt, Asm.at32, busRead_register, hbit]
  rfl

/-- The host stands at a wait on the window at `base`, with `rest` to do after it. -/
structure AtWait (base : Nat) (rest : List HostStmt) (s : State) : Prop where
  inv : s.Inv
  window : s.cfg.base = base
  prog : s.host.prog = Asm.wait base ++ rest

/-- The host has `rest` to do, and no command is in flight: the state that a wait ends in. -/
structure PastWait (rest : List HostStmt) (s : State) : Prop where
  inv : s.Inv
  pend : s.pend = none
  prog : s.host.prog = rest

section
variable {base : Nat} {rest : List HostStmt} {s : State} (hs : AtWait base rest s)
include hs

theorem AtWait.of_turnNext {turn : Turn} {u : State} (hu : TurnNext turn s u) : AtWait base rest u where
  inv := hs.inv.of_turnNext hu
  window := by rw [turnNext_frame hu]; exact hs.window
  prog := by rw [turnNext_frame hu]; exact hs.prog

theorem AtWait.of_takeTurn {turn : Turn} {t : State} (h : takeTurn turn s = .next t)
    (hhost : t.host.prog = s.host.prog) : AtWait base rest t where
  inv := hs.inv.of_takeTurn h
  window := by rw [takeTurn_keeps_cfg h]; exact hs.window
  prog := hhost.trans hs.prog

/-- With PEND empty the poll ends the wait. -/
theorem AtWait.hostTurn_of_idle (hpend : s.pend = none) : ∃ t, hostTurn s = .next t ∧ PastWait rest t := by
  have hturn := hostTurn_of_wait (hs.window ▸ hs.prog)
  have hbusy : busy s = false := by simp [busy, hpend, hs.inv.running]
  exact ⟨_, hturn, hs.inv.of_hostTurn hturn, hpend, by simp [hbusy]⟩

/-- With a command in flight the poll is made again. -/
theorem AtWait.hostTurn_of_pending (hpend : s.pend ≠ none) :
    ∃ t, hostTurn s = .next t ∧ AtWait base rest t ∧ t.sched = s.sched := by
  have hturn := hostTurn_of_wait (hs.window ▸ hs.prog)
  have hbusy : busy s = true := by simp [busy, Option.isSome_iff_ne_none.2 hpend]
  exact ⟨_, hturn, hs.of_takeTurn (turn := .host) hturn (by simp [hbusy]), rfl⟩

/-- The engine's turn leaves the host at the wait, with nothing more to wait for. -/
theorem AtWait.engineTurn_completes :
    ∃ t, engineTurn s = .next t ∧ AtWait base rest t ∧ t.sched = s.sched ∧ t.pend = none := by
  obtain ⟨t, ht, -⟩ := hs.inv.engineTurn_completes
  obtain ⟨hhost, hsched⟩ := engineTurn_sameHost ht
  exact ⟨t, ht, hs.of_takeTurn (turn := .engine) ht (congrArg HostState.prog hhost), hsched,
    hs.inv.engineTurn_pend ht⟩

/-- Any turn ends the wait or leaves the host at it. -/
theorem AtWait.takeTurn_completes (turn : Turn) :
    ∃ t, takeTurn turn s = .next t ∧ (PastWait rest t ∨ AtWait base rest t ∧ t.sched = s.sched) := by
  cases turn with
  | host =>
    by_cases hpend : s.pend = none
    · exact (hs.hostTurn_of_idle hpend).imp fun _ ⟨ht, hpast⟩ => ⟨ht, .inl hpast⟩
    · exact (hs.hostTurn_of_pending hpend).imp fun _ ⟨ht, hwait⟩ => ⟨ht, .inr hwait⟩
  | engine => exact hs.engineTurn_completes.imp fun _ ⟨ht, hwait, hsched, _⟩ => ⟨ht, .inr ⟨hwait, hsched⟩⟩
  | reset => exact ⟨_, rfl, .inr ⟨hs.of_takeTurn (turn := .reset) rfl rfl, rfl⟩⟩

end

/-! The run of a wait. -/

/-- Within `k` steps the wait ends, and until then the host stands at it. -/
def WaitEndsWithin (base : Nat) (rest : List HostStmt) (k : Nat) (s : State) : Prop :=
  ∃ n t, n ≤ k ∧ core.run n s = .next t ∧ PastWait rest t ∧
    ∀ m, m < n → ∃ u, core.run m s = .next u ∧ u.host.prog = Asm.wait base ++ rest

theorem PastWait.waitEndsWithin {base : Nat} {rest : List HostStmt} {s : State} (hs : PastWait rest s) (k : Nat) :
    WaitEndsWithin base rest k s :=
  ⟨0, s, Nat.zero_le k, rfl, hs, fun m hm => absurd hm (Nat.not_lt_zero m)⟩

/-- A step at the wait delays its end by one. -/
theorem WaitEndsWithin.of_step {base k : Nat} {rest : List HostStmt} {s t : State} (ht : WaitEndsWithin base rest k t)
    (hs : AtWait base rest s) (hstep : step s = .next t) : WaitEndsWithin base rest (k + 1) s := by
  obtain ⟨n, u, hn, hrun, hpast, hbefore⟩ := ht
  refine ⟨n + 1, u, Nat.succ_le_succ hn, (run_of_step core hstep).trans hrun, hpast, fun m hm => ?_⟩
  cases m with
  | zero => exact ⟨s, rfl, hs.prog⟩
  | succ m =>
    rw [run_of_step core hstep]
    exact hbefore m (Nat.lt_of_succ_lt_succ hm)

/-- With PEND empty and no turn scheduled the wait ends at its next poll. -/
theorem AtWait.endsWithin_of_idle {base : Nat} {rest : List HostStmt} {s : State} (hs : AtWait base rest s)
    (hpend : s.pend = none) (hsched : s.sched = []) (k : Nat) : WaitEndsWithin base rest (k + 1) s := by
  obtain ⟨t, ht, hpast⟩ := hs.hostTurn_of_idle hpend
  exact (hpast.waitEndsWithin k).of_step hs ((step_of_turnNext (turnNext_host_of_idle hpend hsched)).trans ht)

/-- With no turn scheduled a pending command goes first, and the next poll ends the wait. -/
theorem AtWait.endsWithin_of_unscheduled {base : Nat} {rest : List HostStmt} {s : State} (hs : AtWait base rest s)
    (hsched : s.sched = []) : WaitEndsWithin base rest 2 s := by
  cases hpend : s.pend with
  | none => exact hs.endsWithin_of_idle hpend hsched 1
  | some w =>
    obtain ⟨t, ht, hwait, hsame, hdone⟩ := hs.engineTurn_completes
    exact (hwait.endsWithin_of_idle hdone (hsame.trans hsched) 0).of_step hs
      ((step_of_turnNext (turnNext_engine_of_pending hpend hs.inv.running hsched)).trans ht)

/-- A wait ends at the latest two steps after the scheduled turns. -/
theorem AtWait.endsWithin {base : Nat} {rest : List HostStmt} {s : State} (hs : AtWait base rest s) :
    WaitEndsWithin base rest (s.sched.length + 2) s := by
  generalize hsched : s.sched = l
  induction l generalizing s with
  | nil => exact hs.endsWithin_of_unscheduled hsched
  | cons turn l ih =>
    have hnext : TurnNext turn s { s with sched := l } := .inl ⟨l, hsched, rfl⟩
    obtain ⟨t, ht, hcases⟩ := (hs.of_turnNext hnext).takeTurn_completes turn
    have hstep := (step_of_turnNext hnext).trans ht
    obtain hpast | ⟨hwait, hsame⟩ := hcases
    · exact (hpast.waitEndsWithin (l.length + 2)).of_step hs hstep
    · exact (ih hwait hsame).of_step hs hstep

/-! After a wait at the end of the program every turn passes, or resets the engine. -/

theorem PastWait.step_of_nil {s : State} (hs : PastWait [] s) : ∃ t, step s = .next t ∧ PastWait [] t := by
  obtain ⟨turn, u, hu⟩ := exists_turnNext s
  obtain ⟨l, rfl⟩ := exists_sched_of_turnNext hu
  have hinv := hs.inv.of_turnNext hu
  rw [step_of_turnNext hu]
  cases turn with
  | host => exact ⟨_, by simp only [takeTurn, hostTurn, hs.prog], hinv, hs.pend, hs.prog⟩
  | engine => exact ⟨_, engineWithoutAStepChangesNothing _ (.inl hs.pend), hinv, hs.pend, hs.prog⟩
  | reset => exact ⟨_, rfl, hinv.of_takeTurn (turn := .reset) rfl, rfl, hs.prog⟩

theorem PastWait.run_of_nil {s : State} (hs : PastWait [] s) (k : Nat) :
    ∃ t, core.run k s = .next t ∧ PastWait [] t := by
  induction k generalizing s with
  | zero => exact ⟨s, rfl, hs⟩
  | succ k ih =>
    obtain ⟨t, hstep, ht⟩ := hs.step_of_nil
    rw [run_of_step core hstep]
    exact ih ht

/-- A run goes on from where its first steps end. -/
theorem run_add_of_run (M : Host.Core) {n : Nat} {s t : M.State} (h : M.run n s = .next t) (k : Nat) :
    M.run (n + k) s = M.run k t := by
  induction n generalizing s with
  | zero => cases h; rw [Nat.zero_add]
  | succ n ih =>
    rw [Nat.succ_add]
    simp only [Host.Core.run] at h ⊢
    split at h
    · exact ih h
    · cases h
    · cases h

/-- Settles O53: the wait ends within the bound, and where nothing follows the machine then stays as it is. -/
theorem everyWaitEnds : Obligations.EveryWaitEnds := by
  intro s rest hs hprog
  obtain ⟨n, t, hn, hrun, hpast, hbefore⟩ := AtWait.endsWithin ⟨hs, rfl, hprog⟩
  refine ⟨⟨n, t, hn, hrun, hpast.prog, hpast.pend, hpast.inv, hprog ▸ hbefore⟩, ?_⟩
  rintro rfl
  obtain ⟨u, hu, hend⟩ := hpast.run_of_nil (s.sched.length + 2 - n)
  refine ⟨u, ?_, hend.prog, hend.pend, hend.inv⟩
  rw [← Nat.add_sub_of_le hn, run_add_of_run core hrun]
  exact hu

end Sys2Proof.Machine
end
